-- ==== Sys2Proof/Word.lean ====
section
/-! DEFINITION. The types of the machine's values (spec/00_scope.md R7, R9, R13; spec/10_state.md R21). -/

namespace Sys2Proof

/-- An 8-bit value: a general register, a timer, a memory byte, the immediate `kk` (R7, R22). -/
abbrev Byte := BitVec 8

/-- A 16-bit value: an instruction word, `PC`, `I`, a stack entry (R7, R25, R29, R33). -/
abbrev Word := BitVec 16

/-- The 12-bit address literal `nnn` of an instruction (R13, R73). -/
abbrev Lit12 := BitVec 12

/-- The index of a general register `V0` to `VF`: "indices are never out of range by construction" (R22). -/
abbrev Reg := Fin 16

/-- The number of a key 0x0 to 0xF (R36). -/
abbrev Key := Fin 16

/-- The sprite length `n` of `DrawSprite`, a count in 0..15 (R74). -/
abbrev Count := Fin 16

/-- The register `VF`, which the flag-setting instructions write (R23). -/
abbrev Reg.VF : Reg := 15

end Sys2Proof
end

