-- ==== Sys2Proof/Config.lean ====
section
/-! DEFINITION. What is fixed for one machine: the constants of R7, the types of the parameters of R8, and
the free values (opaque constants: nothing can evaluate them). The VALUES this spec gives the parameters
stand in Sys2Proof/Machine/Params.lean. -/

namespace Sys2Proof

/-- `MEM_SIZE`, the number of bytes of memory (R7, R50). -/
@[simp] abbrev Config.memSize : Nat := 4096

/-- `PROGRAM_ORIGIN`, where the ROM is copied and where `PC` starts (R7, R27). -/
@[simp] abbrev Config.programOrigin : Nat := 0x200

/-- `STACK_CAPACITY`, the number of return addresses the call stack holds (R7, R33). -/
@[simp] abbrev Config.stackCapacity : Nat := 16

/-- `ROM_MAX`, the number of ROM bytes that fit: 4096 − 0x200 (R7, R272). -/
@[simp] abbrev Config.romMax : Nat := 3584

/-- `I_OVERFLOW`: what an increment of `I` past 0xFFFF does (R8, R181, D7). -/
inductive IOverflow
  | fault
  | wrap16
deriving DecidableEq, Repr

/-- `VF_WRITE_ORDER`: which of the two writes of a flag-setting operation is last (R8, R156, D8). -/
inductive VfWriteOrder
  | flagLast
  | resultLast
deriving DecidableEq, Repr

/-- `SHIFT_SOURCE`: which register the two shifts read (R8, R162, D10). -/
inductive ShiftSource
  | vx
  | vy
deriving DecidableEq, Repr

/-- `LDST_I_INCREMENT`: what StoreRegisters and LoadRegisters do to `I` (R8, R186, D11). -/
inductive LdstIncrement
  | none
  | nPlus1
  | n
deriving DecidableEq, Repr

/-- `TICK_MODE`: whether the step ticks the timers or the host does (R8, R114, R118, D12). -/
inductive TickMode
  | perStep
  | external
deriving DecidableEq, Repr

/-- The parameters of R8 that change what a program sees and that have a listed set of values.
`PC_WIDTH` and `I_WIDTH` are the widths of `State.PC` and `State.I`; `FONT_BASE` and `GLYPH_STRIDE` are the
opaque constants below; `FONT_IMAGE` is an argument of `Machine.construct`. -/
structure Params where
  /-- `STRICT_5_9`: must the low nibble of families 0x5 and 0x9 be 0 (R81, D4)? -/
  strict59 : Bool
  /-- `I_OVERFLOW`. -/
  iOverflow : IOverflow
  /-- `VF_WRITE_ORDER`. -/
  vfWriteOrder : VfWriteOrder
  /-- `SHIFT_SOURCE`. -/
  shiftSource : ShiftSource
  /-- `LDST_I_INCREMENT`. -/
  ldstIncrement : LdstIncrement
  /-- `TICK_MODE`. -/
  tickMode : TickMode
deriving DecidableEq, Repr

/-- FREE VALUE. The byte the injected random source answers to the draw number `k` (R40, R170, R254, D15):
"The draw is free: a model must let `r` be any byte". Log entry 1. -/
opaque Config.freeRand : Nat → Byte

/-- FREE VALUE. The display's collision answer to the draw number `k` (R201, R251, D14): "The collision
answer is a free input". Log entry 2. -/
opaque Config.freeCollision : Nat → Bool

/-- FREE VALUE. `FONT_BASE`, OPEN in the spec (R8, R182, D13). 12 bits, since the font lies in memory.
Log entry 3. -/
opaque Config.fontBase : BitVec 12

/-- FREE VALUE. `GLYPH_STRIDE`, OPEN in the spec (R8, R182, D13). 12 bits, since glyphs lie in memory.
Log entry 3. -/
opaque Config.glyphStride : BitVec 12

end Sys2Proof
end

