-- ==== Sys2Proof/Machine/Params.lean ====
section
/-! DEFINITION. The values this spec gives the parameters of R8 (spec/00_scope.md R8, spec/92_eei_decisions.md). -/

namespace Sys2Proof.Machine

/-- The column "spec's value" of R8: D4, D7, D8, D10, D11 and D12. -/
def paramsOfSpec : Params :=
  { strict59 := true
    iOverflow := .fault
    vfWriteOrder := .flagLast
    shiftSource := .vx
    ldstIncrement := .none
    tickMode := .perStep }

end Sys2Proof.Machine
end

