-- ==== Sys2Proof/Syntax.lean ====
section
/-! DEFINITION. The instructions: the decoder's 36 variants (spec/30_encoding.md R75), one constructor per row of
spec/opcode_table.json in the table's order, their tag codes (R87), the decoder block's ports (R70), and the textual
forms of R93 and R94. -/

namespace Sys2Proof

/-- The tagged instruction: the decoder's output type (R75). `x` and `y` are register indexes, `kk` the 8-bit
immediate, `nnn` the 12-bit address literal, `n` the sprite length, `raw` the whole word. -/
inductive Instr
  | clearScreen
  | returnFromSub
  | sysCall (nnn : Lit12)
  | jump (nnn : Lit12)
  | call (nnn : Lit12)
  | skipEquals (x : Reg) (kk : Byte)
  | skipNotEquals (x : Reg) (kk : Byte)
  | skipRegEquals (x y : Reg)
  | setReg (x : Reg) (kk : Byte)
  | addConst (x : Reg) (kk : Byte)
  | copyReg (x y : Reg)
  | orReg (x y : Reg)
  | andReg (x y : Reg)
  | xorReg (x y : Reg)
  | addReg (x y : Reg)
  | subReg (x y : Reg)
  | rightShiftReg (x y : Reg)
  | subRegRev (x y : Reg)
  | leftShiftReg (x y : Reg)
  | skipRegNotEquals (x y : Reg)
  | setAddressReg (nnn : Lit12)
  | jumpIndirect (nnn : Lit12)
  | randomNumber (x : Reg) (kk : Byte)
  | drawSprite (x y : Reg) (n : Count)
  | keyIsPressed (x : Reg)
  | keyIsntPressed (x : Reg)
  | readDelayTimer (x : Reg)
  | awaitKeyPress (x : Reg)
  | setDelayTimer (x : Reg)
  | setSoundTimer (x : Reg)
  | addAddressReg (x : Reg)
  | addressKeySprite (x : Reg)
  | storeBCDAtAddress (x : Reg)
  | storeRegisters (x : Reg)
  | loadRegisters (x : Reg)
  | unknown (raw : Word)
deriving DecidableEq, Repr

/-- The 6-bit tag code of a variant (R87). -/
def Instr.tag : Instr → BitVec 6
  | .clearScreen => 0
  | .returnFromSub => 1
  | .jump _ => 2
  | .call _ => 3
  | .skipEquals _ _ => 4
  | .skipNotEquals _ _ => 5
  | .skipRegEquals _ _ => 6
  | .skipRegNotEquals _ _ => 7
  | .setReg _ _ => 8
  | .addConst _ _ => 9
  | .copyReg _ _ => 10
  | .orReg _ _ => 11
  | .andReg _ _ => 12
  | .xorReg _ _ => 13
  | .addReg _ _ => 14
  | .subReg _ _ => 15
  | .subRegRev _ _ => 16
  | .rightShiftReg _ _ => 17
  | .leftShiftReg _ _ => 18
  | .setAddressReg _ => 19
  | .jumpIndirect _ => 20
  | .randomNumber _ _ => 21
  | .drawSprite _ _ _ => 22
  | .keyIsPressed _ => 23
  | .keyIsntPressed _ => 24
  | .readDelayTimer _ => 25
  | .awaitKeyPress _ => 26
  | .setDelayTimer _ => 27
  | .setSoundTimer _ => 28
  | .addAddressReg _ => 29
  | .addressKeySprite _ => 30
  | .storeBCDAtAddress _ => 31
  | .storeRegisters _ => 32
  | .loadRegisters _ => 33
  | .sysCall _ => 34
  | .unknown _ => 35

/-- The seven outputs of the decoder block for one input word (R70). -/
structure DecoderPorts where
  tag : BitVec 6
  x : BitVec 4
  y : BitVec 4
  n : BitVec 4
  kk : BitVec 8
  nnn : BitVec 12
  raw : BitVec 16
deriving DecidableEq, Repr

/-! ## Textual forms (R93, R94): no rule of the machine depends on them -/

/-- One hexadecimal digit. -/
def hexDigit (d : Nat) : Char := "0123456789ABCDEF".toList.getD d '?'

/-- The low `k` hexadecimal digits of `v`, most significant first. -/
def hexDigits : Nat → Nat → List Char
  | 0, _ => []
  | k + 1, v => hexDigits k (v / 16) ++ [hexDigit (v % 16)]

/-- A number in hexadecimal with `k` digits, as R93 writes it (`0x05`, `0x200`). -/
def hexNumber (k v : Nat) : String := "0x" ++ String.ofList (hexDigits k v)

/-- A register name `V0` to `VF` (R93). -/
def Reg.render (x : Reg) : String := "V" ++ String.ofList (hexDigits 1 x.val)

/-- The operands of a variant, in the order of R75, under the names of the formats of R76. -/
inductive Operands
  | fNone
  | fNNN (nnn : Lit12)
  | fXKK (x : Reg) (kk : Byte)
  | fXY (x y : Reg)
  | fXYN (x y : Reg) (n : Count)
  | fX (x : Reg)
  | fRaw (raw : Word)
deriving DecidableEq, Repr

/-- The fields a variant carries, with its format (R75, R76). -/
def Instr.operands : Instr → Operands
  | .clearScreen | .returnFromSub => .fNone
  | .sysCall a | .jump a | .call a | .setAddressReg a | .jumpIndirect a => .fNNN a
  | .skipEquals x k | .skipNotEquals x k | .setReg x k | .addConst x k | .randomNumber x k => .fXKK x k
  | .skipRegEquals x y | .skipRegNotEquals x y | .copyReg x y | .orReg x y | .andReg x y | .xorReg x y
  | .addReg x y | .subReg x y | .subRegRev x y | .rightShiftReg x y | .leftShiftReg x y => .fXY x y
  | .drawSprite x y n => .fXYN x y n
  | .keyIsPressed x | .keyIsntPressed x | .readDelayTimer x | .awaitKeyPress x | .setDelayTimer x
  | .setSoundTimer x | .addAddressReg x | .addressKeySprite x | .storeBCDAtAddress x | .storeRegisters x
  | .loadRegisters x => .fX x
  | .unknown w => .fRaw w

/-- The operands as text: registers `V0` to `VF`, numbers in hexadecimal (R93). -/
def Operands.render : Operands → String
  | .fNone => ""
  | .fNNN a => " " ++ hexNumber 3 a.toNat
  | .fXKK x kk => " " ++ x.render ++ ", " ++ hexNumber 2 kk.toNat
  | .fXY x y => " " ++ x.render ++ ", " ++ y.render
  | .fXYN x y n => " " ++ x.render ++ ", " ++ y.render ++ ", " ++ String.ofList (hexDigits 1 n.val)
  | .fX x => " " ++ x.render
  | .fRaw w => " " ++ hexNumber 4 w.toNat

/-- The variant's name (R75). -/
def Instr.name : Instr → String
  | .clearScreen => "ClearScreen"
  | .returnFromSub => "ReturnFromSub"
  | .sysCall _ => "SysCall"
  | .jump _ => "Jump"
  | .call _ => "Call"
  | .skipEquals _ _ => "SkipEquals"
  | .skipNotEquals _ _ => "SkipNotEquals"
  | .skipRegEquals _ _ => "SkipRegEquals"
  | .setReg _ _ => "SetReg"
  | .addConst _ _ => "AddConst"
  | .copyReg _ _ => "CopyReg"
  | .orReg _ _ => "OrReg"
  | .andReg _ _ => "AndReg"
  | .xorReg _ _ => "XorReg"
  | .addReg _ _ => "AddReg"
  | .subReg _ _ => "SubReg"
  | .rightShiftReg _ _ => "RightShiftReg"
  | .subRegRev _ _ => "SubRegRev"
  | .leftShiftReg _ _ => "LeftShiftReg"
  | .skipRegNotEquals _ _ => "SkipRegNotEquals"
  | .setAddressReg _ => "SetAddressReg"
  | .jumpIndirect _ => "JumpIndirect"
  | .randomNumber _ _ => "RandomNumber"
  | .drawSprite _ _ _ => "DrawSprite"
  | .keyIsPressed _ => "KeyIsPressed"
  | .keyIsntPressed _ => "KeyIsntPressed"
  | .readDelayTimer _ => "ReadDelayTimer"
  | .awaitKeyPress _ => "AwaitKeyPress"
  | .setDelayTimer _ => "SetDelayTimer"
  | .setSoundTimer _ => "SetSoundTimer"
  | .addAddressReg _ => "AddAddressReg"
  | .addressKeySprite _ => "AddressKeySprite"
  | .storeBCDAtAddress _ => "StoreBCDAtAddress"
  | .storeRegisters _ => "StoreRegisters"
  | .loadRegisters _ => "LoadRegisters"
  | .unknown _ => "Unknown"

/-- An instruction as this spec writes it: the variant name, then its operands (R93). -/
def Instr.render (i : Instr) : String := i.name ++ i.operands.render

/-- The conventional CHIP-8 spelling (R94); a word that has none is written as R93 writes it. -/
def Instr.renderConventional : Instr → String
  | .clearScreen => "CLS"
  | .returnFromSub => "RET"
  | .sysCall a => "SYS " ++ hexNumber 3 a.toNat
  | .jump a => "JP " ++ hexNumber 3 a.toNat
  | .call a => "CALL " ++ hexNumber 3 a.toNat
  | .skipEquals x k => "SE " ++ x.render ++ ", " ++ hexNumber 2 k.toNat
  | .skipNotEquals x k => "SNE " ++ x.render ++ ", " ++ hexNumber 2 k.toNat
  | .skipRegEquals x y => "SE " ++ x.render ++ ", " ++ y.render
  | .setReg x k => "LD " ++ x.render ++ ", " ++ hexNumber 2 k.toNat
  | .addConst x k => "ADD " ++ x.render ++ ", " ++ hexNumber 2 k.toNat
  | .copyReg x y => "LD " ++ x.render ++ ", " ++ y.render
  | .orReg x y => "OR " ++ x.render ++ ", " ++ y.render
  | .andReg x y => "AND " ++ x.render ++ ", " ++ y.render
  | .xorReg x y => "XOR " ++ x.render ++ ", " ++ y.render
  | .addReg x y => "ADD " ++ x.render ++ ", " ++ y.render
  | .subReg x y => "SUB " ++ x.render ++ ", " ++ y.render
  | .rightShiftReg x y => "SHR " ++ x.render ++ ", " ++ y.render
  | .subRegRev x y => "SUBN " ++ x.render ++ ", " ++ y.render
  | .leftShiftReg x y => "SHL " ++ x.render ++ ", " ++ y.render
  | .skipRegNotEquals x y => "SNE " ++ x.render ++ ", " ++ y.render
  | .setAddressReg a => "LD I, " ++ hexNumber 3 a.toNat
  | .jumpIndirect a => "JP V0, " ++ hexNumber 3 a.toNat
  | .randomNumber x k => "RND " ++ x.render ++ ", " ++ hexNumber 2 k.toNat
  | .drawSprite x y n => "DRW " ++ x.render ++ ", " ++ y.render ++ ", " ++ String.ofList (hexDigits 1 n.val)
  | .keyIsPressed x => "SKP " ++ x.render
  | .keyIsntPressed x => "SKNP " ++ x.render
  | .readDelayTimer x => "LD " ++ x.render ++ ", DT"
  | .awaitKeyPress x => "LD " ++ x.render ++ ", K"
  | .setDelayTimer x => "LD DT, " ++ x.render
  | .setSoundTimer x => "LD ST, " ++ x.render
  | .addAddressReg x => "ADD I, " ++ x.render
  | .addressKeySprite x => "LD F, " ++ x.render
  | .storeBCDAtAddress x => "LD B, " ++ x.render
  | .storeRegisters x => "LD [I], " ++ x.render
  | .loadRegisters x => "LD " ++ x.render ++ ", [I]"
  | .unknown w => "Unknown " ++ hexNumber 4 w.toNat

end Sys2Proof
end

