-- ==== Sys2Proof/WellFormed.lean ====
section
/-! DEFINITION. Which instructions a word can stand for (spec/30_encoding.md R89, R90, R92). Every register
index, immediate, count and address literal is in range by its type; two checks remain: a legacy call names neither
0x0E0 nor 0x0EE, and `Unknown` carries a word of the table of R89. -/

namespace Sys2Proof

/-- The words of the table of R89, written from that table and not from the decoder. Without `STRICT_5_9` its
first and third rows are empty. -/
def isUnknownWord (strict : Bool) (w : Word) : Bool :=
  let family := w.toNat / 4096
  let n := w.toNat % 16
  let kk := w.toNat % 256
  (family == 0x5 && strict && n != 0)
  || (family == 0x8 && [0x8, 0x9, 0xA, 0xB, 0xC, 0xD, 0xF].contains n)
  || (family == 0x9 && strict && n != 0)
  || (family == 0xE && !([0x9E, 0xA1].contains kk))
  || (family == 0xF && !([0x07, 0x0A, 0x15, 0x18, 0x1E, 0x29, 0x33, 0x55, 0x65].contains kk))

/-- The well-formed instructions: those some word decodes to under the value `strict` of `STRICT_5_9` (R92). -/
def Instr.wf (strict : Bool) : Instr → Bool
  | .sysCall nnn => nnn != 0x0E0 && nnn != 0x0EE
  | .unknown w => isUnknownWord strict w
  | .clearScreen | .returnFromSub | .jump _ | .call _ | .setAddressReg _ | .jumpIndirect _ => true
  | .skipEquals _ _ | .skipNotEquals _ _ | .setReg _ _ | .addConst _ _ | .randomNumber _ _ => true
  | .skipRegEquals _ _ | .skipRegNotEquals _ _ | .copyReg _ _ | .orReg _ _ | .andReg _ _ | .xorReg _ _ => true
  | .addReg _ _ | .subReg _ _ | .subRegRev _ _ | .rightShiftReg _ _ | .leftShiftReg _ _ => true
  | .drawSprite _ _ _ => true
  | .keyIsPressed _ | .keyIsntPressed _ | .readDelayTimer _ | .awaitKeyPress _ | .setDelayTimer _ => true
  | .setSoundTimer _ | .addAddressReg _ | .addressKeySprite _ | .storeBCDAtAddress _ => true
  | .storeRegisters _ | .loadRegisters _ => true

end Sys2Proof
end

