-- ==== Sys2Proof/Decode.lean ====
section
/-! DEFINITION. The decoder block and its encoder (spec/30_encoding.md R70 to R92). -/

namespace Sys2Proof

/-! ## The fields of a word (R73) -/

/-- The family nibble `w[15:12]`. -/
def fieldFamily (w : Word) : BitVec 4 := w.extractLsb' 12 4
/-- The field `x = w[11:8]`. -/
def fieldX (w : Word) : BitVec 4 := w.extractLsb' 8 4
/-- The field `y = w[7:4]`. -/
def fieldY (w : Word) : BitVec 4 := w.extractLsb' 4 4
/-- The field `n = w[3:0]`. -/
def fieldN (w : Word) : BitVec 4 := w.extractLsb' 0 4
/-- The field `kk = w[7:0]`. -/
def fieldKK (w : Word) : BitVec 8 := w.extractLsb' 0 8
/-- The field `nnn = w[11:0]`. -/
def fieldNNN (w : Word) : BitVec 12 := w.extractLsb' 0 12

/-- `w[11:8]` as a register index. -/
def regX (w : Word) : Reg := (fieldX w).toFin
/-- `w[7:4]` as a register index. -/
def regY (w : Word) : Reg := (fieldY w).toFin
/-- `w[3:0]` as a count. -/
def countN (w : Word) : Count := (fieldN w).toFin

/-! ## The decode map (R77) -/

/-- Family 0x0: the whole of `nnn` is compared (R78). -/
def decodeFamily0 (w : Word) : Instr :=
  if fieldNNN w = 0x0E0 then .clearScreen
  else if fieldNNN w = 0x0EE then .returnFromSub
  else .sysCall (fieldNNN w)

/-- Family 0x5 (R81): a non-zero low nibble is `Unknown` under `STRICT_5_9`. -/
def decodeFamily5 (strict : Bool) (w : Word) : Instr :=
  if fieldN w = 0 ∨ strict = false then .skipRegEquals (regX w) (regY w) else .unknown w

/-- Family 0x8 dispatches on the low nibble (R82). -/
def decodeFamily8 (w : Word) : Instr :=
  match (fieldN w).toNat with
  | 0x0 => .copyReg (regX w) (regY w)
  | 0x1 => .orReg (regX w) (regY w)
  | 0x2 => .andReg (regX w) (regY w)
  | 0x3 => .xorReg (regX w) (regY w)
  | 0x4 => .addReg (regX w) (regY w)
  | 0x5 => .subReg (regX w) (regY w)
  | 0x6 => .rightShiftReg (regX w) (regY w)
  | 0x7 => .subRegRev (regX w) (regY w)
  | 0xE => .leftShiftReg (regX w) (regY w)
  | _ => .unknown w

/-- Family 0x9 (R81). -/
def decodeFamily9 (strict : Bool) (w : Word) : Instr :=
  if fieldN w = 0 ∨ strict = false then .skipRegNotEquals (regX w) (regY w) else .unknown w

/-- Family 0xE dispatches on the low byte (R84). -/
def decodeFamilyE (w : Word) : Instr :=
  if fieldKK w = 0x9E then .keyIsPressed (regX w)
  else if fieldKK w = 0xA1 then .keyIsntPressed (regX w)
  else .unknown w

/-- Family 0xF dispatches on the low byte (R85). -/
def decodeFamilyF (w : Word) : Instr :=
  if fieldKK w = 0x07 then .readDelayTimer (regX w)
  else if fieldKK w = 0x0A then .awaitKeyPress (regX w)
  else if fieldKK w = 0x15 then .setDelayTimer (regX w)
  else if fieldKK w = 0x18 then .setSoundTimer (regX w)
  else if fieldKK w = 0x1E then .addAddressReg (regX w)
  else if fieldKK w = 0x29 then .addressKeySprite (regX w)
  else if fieldKK w = 0x33 then .storeBCDAtAddress (regX w)
  else if fieldKK w = 0x55 then .storeRegisters (regX w)
  else if fieldKK w = 0x65 then .loadRegisters (regX w)
  else .unknown w

/-- The decoder (R77): a total function of the word, under the value `strict` of `STRICT_5_9`. The family is a
nibble, so the last line is never reached. -/
def decodeWord (strict : Bool) (w : Word) : Instr :=
  match (fieldFamily w).toNat with
  | 0x0 => decodeFamily0 w
  | 0x1 => .jump (fieldNNN w)
  | 0x2 => .call (fieldNNN w)
  | 0x3 => .skipEquals (regX w) (fieldKK w)
  | 0x4 => .skipNotEquals (regX w) (fieldKK w)
  | 0x5 => decodeFamily5 strict w
  | 0x6 => .setReg (regX w) (fieldKK w)
  | 0x7 => .addConst (regX w) (fieldKK w)
  | 0x8 => decodeFamily8 w
  | 0x9 => decodeFamily9 strict w
  | 0xA => .setAddressReg (fieldNNN w)
  | 0xB => .jumpIndirect (fieldNNN w)
  | 0xC => .randomNumber (regX w) (fieldKK w)
  | 0xD => .drawSprite (regX w) (regY w) (countN w)
  | 0xE => decodeFamilyE w
  | 0xF => decodeFamilyF w
  | _ => .unknown w

/-- The decoder block's outputs: every field port is driven with its slice, whatever the tag (R70, D3). -/
def decoderPorts (strict : Bool) (w : Word) : DecoderPorts :=
  { tag := (decodeWord strict w).tag
    x := fieldX w
    y := fieldY w
    n := fieldN w
    kk := fieldKK w
    nnn := fieldNNN w
    raw := w }

/-- The word of two fetched bytes: the first is the most significant (R55). -/
def wordOfBytes (hi lo : Byte) : Word := hi ++ lo

/-- The first byte of a word in memory, `word[15:8]` (R55). -/
def hiByte (w : Word) : Byte := w.extractLsb' 8 8
/-- The second byte of a word in memory, `word[7:0]` (R55). -/
def loByte (w : Word) : Byte := w.extractLsb' 0 8

/-- Why a list of bytes is no instruction. Every 16-bit word decodes (R71), so this is the one reason. -/
inductive DecodeError
  /-- Fewer than two bytes: an instruction is one 16-bit word (R73). -/
  | tooFewBytes
deriving DecidableEq, Repr

/-- Decoding on bytes: the instruction in the first two of them, and the rest (R55, R73). -/
def decodeBytes (strict : Bool) : List Byte → Except DecodeError (Instr × List Byte)
  | hi :: lo :: rest => .ok (decodeWord strict (wordOfBytes hi lo), rest)
  | _ => .error .tooFewBytes

/-- The instruction the decoder reads from a word numbered as spec/opcode_table.json numbers it: one 16-bit word,
laid out big-endian (R55), under this spec's value of `STRICT_5_9`. -/
def decodeTableWord (nbits w : Nat) : Option Instr :=
  let bits := w % 2 ^ nbits
  if bits < 2 ^ 16 then
    let word : Word := BitVec.ofNat 16 bits
    match decodeBytes Machine.paramsOfSpec.strict59 [hiByte word, loByte word] with
    | .ok (i, _) => some i
    | .error _ => none
  else none

/-! ## The encoder (R92), written from the layouts of R76 and the `match` column of R88 -/

/-- `f n n n` (format F_NNN). -/
def encNNN (f : BitVec 4) (nnn : Lit12) : Word := f ++ nnn
/-- `f x k k` (format F_XKK). -/
def encXKK (f : BitVec 4) (x : Reg) (kk : Byte) : Word := f ++ (BitVec.ofFin (w := 4) x ++ kk)
/-- `f x y s` (formats F_XY and F_XYN). -/
def encXYN (f : BitVec 4) (x y : Reg) (s : BitVec 4) : Word :=
  f ++ (BitVec.ofFin (w := 4) x ++ (BitVec.ofFin (w := 4) y ++ s))

/-- The word of an instruction (R92). -/
def encode : Instr → Word
  | .clearScreen => 0x00E0
  | .returnFromSub => 0x00EE
  | .sysCall nnn => encNNN 0x0 nnn
  | .jump nnn => encNNN 0x1 nnn
  | .call nnn => encNNN 0x2 nnn
  | .skipEquals x kk => encXKK 0x3 x kk
  | .skipNotEquals x kk => encXKK 0x4 x kk
  | .skipRegEquals x y => encXYN 0x5 x y 0x0
  | .setReg x kk => encXKK 0x6 x kk
  | .addConst x kk => encXKK 0x7 x kk
  | .copyReg x y => encXYN 0x8 x y 0x0
  | .orReg x y => encXYN 0x8 x y 0x1
  | .andReg x y => encXYN 0x8 x y 0x2
  | .xorReg x y => encXYN 0x8 x y 0x3
  | .addReg x y => encXYN 0x8 x y 0x4
  | .subReg x y => encXYN 0x8 x y 0x5
  | .rightShiftReg x y => encXYN 0x8 x y 0x6
  | .subRegRev x y => encXYN 0x8 x y 0x7
  | .leftShiftReg x y => encXYN 0x8 x y 0xE
  | .skipRegNotEquals x y => encXYN 0x9 x y 0x0
  | .setAddressReg nnn => encNNN 0xA nnn
  | .jumpIndirect nnn => encNNN 0xB nnn
  | .randomNumber x kk => encXKK 0xC x kk
  | .drawSprite x y n => encXYN 0xD x y (BitVec.ofFin (w := 4) n)
  | .keyIsPressed x => encXKK 0xE x 0x9E
  | .keyIsntPressed x => encXKK 0xE x 0xA1
  | .readDelayTimer x => encXKK 0xF x 0x07
  | .awaitKeyPress x => encXKK 0xF x 0x0A
  | .setDelayTimer x => encXKK 0xF x 0x15
  | .setSoundTimer x => encXKK 0xF x 0x18
  | .addAddressReg x => encXKK 0xF x 0x1E
  | .addressKeySprite x => encXKK 0xF x 0x29
  | .storeBCDAtAddress x => encXKK 0xF x 0x33
  | .storeRegisters x => encXKK 0xF x 0x55
  | .loadRegisters x => encXKK 0xF x 0x65
  | .unknown w => w

/-! ## The opcode map as a table (R88) -/

/-- The rows of R88 but the last (`anything else`), as (mask, match, tag): a word matches a row when
`word & mask == match`. The masks of families 0x5 and 0x9 depend on `STRICT_5_9`. -/
def opcodeTable (strict : Bool) : List (Word × Word × BitVec 6) :=
  [(0xFFFF, 0x00E0, 0), (0xFFFF, 0x00EE, 1), (0xF000, 0x0000, 34), (0xF000, 0x1000, 2), (0xF000, 0x2000, 3),
   (0xF000, 0x3000, 4), (0xF000, 0x4000, 5), (if strict then 0xF00F else 0xF000, 0x5000, 6),
   (0xF000, 0x6000, 8), (0xF000, 0x7000, 9)]
  ++ [(0xF00F, 0x8000, 10), (0xF00F, 0x8001, 11), (0xF00F, 0x8002, 12), (0xF00F, 0x8003, 13), (0xF00F, 0x8004, 14),
   (0xF00F, 0x8005, 15), (0xF00F, 0x8006, 17), (0xF00F, 0x8007, 16), (0xF00F, 0x800E, 18),
   (if strict then 0xF00F else 0xF000, 0x9000, 7)]
  ++ [(0xF000, 0xA000, 19), (0xF000, 0xB000, 20), (0xF000, 0xC000, 21), (0xF000, 0xD000, 22),
   (0xF0FF, 0xE09E, 23), (0xF0FF, 0xE0A1, 24)]
  ++ [(0xF0FF, 0xF007, 25), (0xF0FF, 0xF00A, 26), (0xF0FF, 0xF015, 27), (0xF0FF, 0xF018, 28), (0xF0FF, 0xF01E, 29),
   (0xF0FF, 0xF029, 30), (0xF0FF, 0xF033, 31), (0xF0FF, 0xF055, 32), (0xF0FF, 0xF065, 33)]

/-- Does the word match the row (R88)? The `SysCall` row (tag 34) excludes 0x00E0 and 0x00EE. -/
def rowMatches (row : Word × Word × BitVec 6) (w : Word) : Bool :=
  w &&& row.1 == row.2.1 && !(row.2.2 == 34 && (w == 0x00E0 || w == 0x00EE))

/-- The tag of the row a word matches, 35 (`Unknown`) when it matches none (R88). -/
def tableTag (strict : Bool) (w : Word) : BitVec 6 :=
  match (opcodeTable strict).find? (rowMatches · w) with
  | some row => row.2.2
  | none => 35

end Sys2Proof
end

