-- ==== Sys2Proof/Machine/State.lean ====
section
/-! DEFINITION. The machine state (spec/10_state.md R21), the errors a step can end with
(spec/60_exceptions.md R230 to R239) and the state after reset (spec/70_reset_and_hazards.md R271). -/

namespace Sys2Proof.Machine

/-- The memory `M` (R50): the listed bytes in rising order of address; an address that is not listed reads as
`Memory.unlisted`. `Memory.wf` (Machine/Ops.lean) is its canonical form. -/
abbrev Memory := List Host.Cell

/-- A request to the display (R251). -/
inductive DisplayRequest
  /-- From ClearScreen (R200). -/
  | clear
  /-- From DrawSprite: column, row and the sprite's bytes (R201). -/
  | draw (cx cy : Byte) (bytes : List Byte)
deriving DecidableEq, Repr

/-- The state of the core. The first ten fields are the record of R21, under its names; the last three are the
model's own (log entries 1, 2, 4 and 5). -/
structure State where
  /-- `V0` to `VF` (R22). -/
  V : Vector Byte 16
  /-- The address register (R29). -/
  I : Word
  /-- The address of the next instruction to fetch (R25). -/
  PC : Word
  /-- The call stack's entries (R33). -/
  stack : Vector Word 16
  /-- The number of live entries, 0..16 (R33). -/
  depth : Fin 17
  /-- The delay timer (R31). -/
  DT : Byte
  /-- The sound timer (R32). -/
  ST : Byte
  /-- The keypad flags (R36). -/
  KEY : Vector Bool 16
  /-- The executed-instruction counter (R37). -/
  cycles : Nat
  /-- Memory (R50). -/
  M : Memory
  /-- MODEL'S OWN. The display requests of the latest step: the `events` of R110, empty or of length one. -/
  events : List DisplayRequest
  /-- MODEL'S OWN. How many free values (`rand` and `collision` of R110) have been drawn. -/
  draws : Nat
  /-- MODEL'S OWN. The values of the parameters of R8 this machine is built with; no step changes them. -/
  params : Params
deriving DecidableEq, Repr

/-- The error kinds a step can return (R230), with what R239 has each record: the `PC` of the failing instruction
and the offending address, word or `nnn`. The run is over (R230) and no state is left to rely on (R115). A fault is safe:
no claim about the state after it can be proved. -/
inductive Fault
  /-- Raised by `Unknown(word)`, always (R231, R221). Safe. -/
  | invalidOpcode (pc : Word) (word : Word)
  /-- Raised by `SysCall(nnn)`, always (R232, R220). Safe. -/
  | unsupportedInstruction (pc : Word) (nnn : Lit12)
  /-- Raised by `Call` when the stack holds 16 entries (R233, R34). Safe. -/
  | stackOverflow (pc : Word)
  /-- Raised by `ReturnFromSub` when the stack is empty (R234, R35). Safe. -/
  | stackUnderflow (pc : Word)
  /-- Raised by the fetch when `PC ≥ 4095`, and by DrawSprite, StoreBCDAtAddress, StoreRegisters and LoadRegisters
  for the first address they touch that is 4096 or more (R235, R56, R59). Safe. -/
  | outOfBoundsAccess (pc : Word) (addr : Nat)
  /-- Raised under `I_OVERFLOW = fault` by AddAddressReg, and under a non-default `LDST_I_INCREMENT` by StoreRegisters
  and LoadRegisters, when `I` would pass 0xFFFF (R236, R181, R186). Safe. -/
  | addressRegOverflow (pc : Word) (sum : Nat)
deriving DecidableEq, Repr

/-- Why the model gives an instruction no meaning. -/
inductive Refusal
  /-- Raised by an arm of `exec` whose instruction has no meaning in the model; no arm raises it now. Safe. -/
  | notModelled (mnemonic : String)
deriving DecidableEq, Repr

/-- The state after reset, of a machine with an empty ROM and the default `FONT_IMAGE` (R271, R272): registers,
timers, stack and keypad zeroed, `PC` at the program origin, memory all zeros, which is nothing listed. `construct`
(Machine/Boot.lean) is the same construction for any ROM and font image. -/
def State.reset : State :=
  { V := Vector.replicate 16 0
    I := 0
    PC := 0x200
    stack := Vector.replicate 16 0
    depth := 0
    DT := 0
    ST := 0
    KEY := Vector.replicate 16 false
    cycles := 0
    M := []
    events := []
    draws := 0
    params := paramsOfSpec }

end Sys2Proof.Machine
end

