-- ==== Sys2Proof/Machine/Ops.lean ====
section
/-! DEFINITION. The named operations over memory, registers, the stack and the timers (spec/00_scope.md R11,
spec/20_memory.md, spec/10_state.md), raising an error, and what a step does around its instruction. -/

namespace Sys2Proof.Machine

/-! ## Memory -/

/-- What an address that is not listed reads as: memory is zero-filled at construction (R272). -/
def Memory.unlisted : Byte := 0

/-- The byte at an address, without the bound check of `memRead`. -/
def Memory.get : Memory → Nat → Byte
  | [], _ => Memory.unlisted
  | c :: m, a => if c.1 = a then c.2 else Memory.get m a

/-- The memory without any entry for `a`. -/
def Memory.erase (m : Memory) (a : Nat) : Memory := m.filter (fun c => c.1 ≠ a)

/-- The memory with the entry `(a, v)` put before the first entry of a higher address. -/
def Memory.insert : Memory → Nat → Byte → Memory
  | [], a, v => [(a, v)]
  | c :: m, a, v => if a < c.1 then (a, v) :: c :: m else c :: Memory.insert m a v

/-- The memory after `M[a] <- v`, in canonical form: a byte that reads as an unlisted one is not listed. -/
def Memory.set (m : Memory) (a : Nat) (v : Byte) : Memory :=
  if v = Memory.unlisted then m.erase a else (m.erase a).insert a v

/-- The canonical form: addresses strictly rising and inside memory, and no entry equal to what an unlisted
address reads as. -/
abbrev Memory.wf (m : Memory) : Prop :=
  m.Pairwise (fun c d => c.1 < d.1) ∧ ∀ c ∈ m, c.1 < Config.memSize ∧ c.2 ≠ Memory.unlisted

/-! ## Raising an error (R230, R241): the step ends, and no state, vector or handler is involved -/

/-- `raise E(info)` (R11). There is no trap entry and so no return from one (R241, R242). -/
def raise (f : Fault) : Host.Outcome State Fault Refusal := .fault f

/-! ## Memory accesses of the machine -/

/-- `MemRead(addr, 1)` (R53); `addr` is exact, never reduced. -/
def memRead (s : State) (addr : Nat) : Except Fault Byte :=
  if addr ≥ Config.memSize then .error (.outOfBoundsAccess s.PC addr) else .ok (s.M.get addr)

/-- `MemWrite(addr, 1, v)` (R54). -/
def memWrite (s : State) (addr : Nat) (v : Byte) : Except Fault State :=
  if addr ≥ Config.memSize then .error (.outOfBoundsAccess s.PC addr) else .ok { s with M := s.M.set addr v }

/-- `n` one-byte reads at ascending addresses; the first one out of bounds is the error (R58, R59). -/
def readBytes (s : State) (addr : Nat) : Nat → Except Fault (List Byte)
  | 0 => .ok []
  | n + 1 =>
    match memRead s addr with
    | .error f => .error f
    | .ok b =>
      match readBytes s (addr + 1) n with
      | .error f => .error f
      | .ok bs => .ok (b :: bs)

/-- One-byte writes at ascending addresses; the first one out of bounds is the error (R58, R59). -/
def writeBytes (s : State) (addr : Nat) : List Byte → Except Fault State
  | [] => .ok s
  | v :: vs =>
    match memWrite s addr v with
    | .error f => .error f
    | .ok t => writeBytes t (addr + 1) vs

/-- The instruction fetch: the big-endian word at `PC`, which fails if `PC` or `PC + 1` is out of memory and checks
no alignment (R55, R56, R57). -/
def fetchWord (s : State) : Except Fault Word :=
  if s.PC.toNat ≥ Config.memSize ∨ s.PC.toNat + 1 ≥ Config.memSize then
    .error (.outOfBoundsAccess s.PC s.PC.toNat)
  else .ok (wordOfBytes (s.M.get s.PC.toNat) (s.M.get (s.PC.toNat + 1)))

/-! ## Registers -/

/-- `V[i]` (R11). -/
def State.readV (s : State) (i : Reg) : Byte := s.V[i.val]

/-- `V[i] <- v` (R11). -/
def State.writeV (s : State) (i : Reg) (v : Byte) : State := { s with V := s.V.set i.val v }

/-- `V[k] <- bs[k]` for every `k` below the length of `bs`; the other registers keep their values (R187). -/
def State.loadV (s : State) (bs : List Byte) : State :=
  { s with V := Vector.ofFn fun k : Reg => bs.getD k.val (s.readV k) }

/-- `I <- v`. -/
def State.writeI (s : State) (v : Word) : State := { s with I := v }

/-- `pc <- target`. -/
def State.setPC (s : State) (target : Word) : State := { s with PC := target }

/-- `pc <- PC + 2`, the default advance (R116). -/
def State.advance (s : State) : State := s.setPC (s.PC + 2)

/-- `pc <- PC + 4` if the skip's condition holds, else `pc <- PC + 2` (R116). -/
def State.skipIf (s : State) (c : Bool) : State := s.setPC (if c then s.PC + 4 else s.PC + 2)

/-- `DT <- v`. -/
def State.writeDT (s : State) (v : Byte) : State := { s with DT := v }

/-- `ST <- v`. -/
def State.writeST (s : State) (v : Byte) : State := { s with ST := v }

/-- `emit(event)` (R11, R251). -/
def State.emit (s : State) (e : DisplayRequest) : State := { s with events := s.events ++ [e] }

/-- Consume one free draw. -/
def State.countDraw (s : State) : State := { s with draws := s.draws + 1 }

/-- An increment of `I` by `k`, exact; past 0xFFFF `I_OVERFLOW` decides (R181, R186). -/
def addToI (s : State) (k : Nat) : Except Fault State :=
  let sum := s.I.toNat + k
  if sum > 0xFFFF then
    match s.params.iOverflow with
    | .fault => .error (.addressRegOverflow s.PC sum)
    | .wrap16 => .ok (s.writeI (BitVec.ofNat 16 (sum % 65536)))
  else .ok (s.writeI (BitVec.ofNat 16 sum))

/-- "apply LDST_I_INCREMENT" after a transfer of `V0` to `Vx` (R186). -/
def applyLdstIncrement (s : State) (x : Reg) : Except Fault State :=
  match s.params.ldstIncrement with
  | .none => .ok s
  | .nPlus1 => addToI s (x.val + 1)
  | .n => addToI s x.val

/-! ## The call stack -/

/-- `push(v)` (R34). -/
def push (s : State) (v : Word) : Except Fault State :=
  if h : s.depth.val < 16 then
    .ok { s with stack := s.stack.set s.depth.val v, depth := ⟨s.depth.val + 1, by omega⟩ }
  else .error (.stackOverflow s.PC)

/-- `pop()` (R35): the value read at the new depth, and the state after. -/
def pop (s : State) : Except Fault (Word × State) :=
  if h : s.depth.val = 0 then .error (.stackUnderflow s.PC)
  else
    let d := s.depth.val - 1
    .ok (s.stack[d]'(by omega), { s with depth := ⟨d, by omega⟩ })

/-! ## The timers and the end of a step -/

/-- One tick of one timer: it stops at zero (R114). -/
def tickTimer (t : Byte) : Byte := if t > 0 then t - 1 else t

/-- `tick` (R114). -/
def tick (s : State) : State := { s with DT := tickTimer s.DT, ST := tickTimer s.ST }

/-- Before the instruction: the step's own list of display requests starts empty (R110). -/
def State.beginStep (s : State) : State := { s with events := [] }

/-- After a successful execution: the tick, under `TICK_MODE = per_step`, then the cycle count (R111, R114, R37). -/
def State.endStep (s : State) : State :=
  let t := match s.params.tickMode with
    | .perStep => tick s
    | .external => s
  { t with cycles := t.cycles + 1 }

/-- The two bytes of a word stored big-endian at an address whose two bytes exist (R55); else nothing. -/
def storeWordAt (s : State) (addr : Nat) (w : Word) : State :=
  if addr + 1 < Config.memSize then
    { s with M := (s.M.set addr (hiByte w)).set (addr + 1) (loByte w) }
  else s

end Sys2Proof.Machine
end

