-- ==== Sys2Proof/Machine/Flags.lean ====
section
/-! DEFINITION. The flag values (spec/10_state.md R28) and the flagged write (spec/42_alu.md R156). -/

namespace Sys2Proof.Machine

/-- A flag as `VF` holds it: 1 or 0 (R28). -/
def flagByte (c : Bool) : Byte := if c then 1 else 0

/-- The carry of AddReg: the exact sum exceeds 255 (R157). -/
def carryOf (a b : Byte) : Bool := a.toNat + b.toNat > 255

/-- "No borrow" of `a − b` (R158, R159): equal operands borrow nothing. -/
def noBorrow (a b : Byte) : Bool := a.toNat ≥ b.toNat

/-- The bit a right shift shifts out, bit 0 (R160). -/
def lowBit (v : Byte) : Bool := v.getLsbD 0

/-- The bit a left shift shifts out, bit 7 (R161). -/
def highBit (v : Byte) : Bool := v.getLsbD 7

/-- `write_flagged(x, result, flag)` (R156): the two writes in the order of `VF_WRITE_ORDER`. -/
def writeFlagged (s : State) (x : Reg) (result : Byte) (flag : Bool) : State :=
  match s.params.vfWriteOrder with
  | .flagLast => (s.writeV x result).writeV Reg.VF (flagByte flag)
  | .resultLast => (s.writeV Reg.VF (flagByte flag)).writeV x result

end Sys2Proof.Machine
end

