-- ==== Sys2Proof/Machine/Operands.lean ====
section
/-! DEFINITION. The operand forms of the instructions (spec/30_encoding.md R74): zero extension, the digit or key a
register names, the address formed from `I`, the registers of a transfer, the shift's source, the keypad. -/

namespace Sys2Proof.Machine

/-- `zext_16` (R10). -/
def zext16 {k : Nat} (v : BitVec k) : Word := v.setWidth 16

/-- `v & 0xF`: the digit or the key a register names (R182, R202). -/
def lowNibble (v : Byte) : Fin 16 := ((v &&& 0xF).setWidth 4).toFin

/-- The address of the byte `k` of a transfer through `I`, an exact sum (R58, D26). -/
def State.addrI (s : State) (k : Nat) : Nat := s.I.toNat + k

/-- `V0` to `Vx`, the registers of StoreRegisters (R185). -/
def State.valuesUpTo (s : State) (x : Reg) : List Byte := ((List.finRange 16).take (x.val + 1)).map s.readV

/-- What the two shifts read: `Vx`, or `Vy` under `SHIFT_SOURCE = Vy` (R162). -/
def shiftOperand (s : State) (x y : Reg) : Byte :=
  match s.params.shiftSource with
  | .vx => s.readV x
  | .vy => s.readV y

/-- `KEY[k]` (R36). -/
def State.key (s : State) (k : Key) : Bool := s.KEY[k.val]

/-- `min { k | KEY[k] }`, if a key is pressed: "scan keypad low-to-high" (R205). -/
def State.lowestKey (s : State) : Option Key := (List.finRange 16).find? (fun k => s.key k)

/-- The three decimal digits of a byte: hundreds, tens, ones (R183). -/
def bcdDigits (v : Byte) : List Byte := [v / 100, (v / 10) % 10, v % 10]

/-- The address of the glyph of digit `d` in a font at `base` with glyphs `stride` bytes apart (R182). 12-bit
parameters keep the exact sum below 65536. -/
def glyphAddress (base stride : BitVec 12) (d : Fin 16) : Word :=
  BitVec.ofNat 16 (base.toNat + stride.toNat * d.val)

end Sys2Proof.Machine
end

