-- ==== Sys2Proof/Machine/Alu.lean ====
section
/-! DEFINITION. The register and ALU instructions (spec/42_alu.md R150 to R162, R170). Both operands are read before
any result is written (R156). -/

namespace Sys2Proof.Machine

/-- R150. -/
def execSetReg (x : Reg) (kk : Byte) (s : State) : Host.Outcome State Fault Refusal :=
  .next (s.writeV x kk).advance

/-- R151: wraps, no flag. -/
def execAddConst (x : Reg) (kk : Byte) (s : State) : Host.Outcome State Fault Refusal :=
  .next (s.writeV x (s.readV x + kk)).advance

/-- R152. -/
def execCopyReg (x y : Reg) (s : State) : Host.Outcome State Fault Refusal :=
  .next (s.writeV x (s.readV y)).advance

/-- R153. -/
def execOrReg (x y : Reg) (s : State) : Host.Outcome State Fault Refusal :=
  .next (s.writeV x (s.readV x ||| s.readV y)).advance

/-- R154. -/
def execAndReg (x y : Reg) (s : State) : Host.Outcome State Fault Refusal :=
  .next (s.writeV x (s.readV x &&& s.readV y)).advance

/-- R155. -/
def execXorReg (x y : Reg) (s : State) : Host.Outcome State Fault Refusal :=
  .next (s.writeV x (s.readV x ^^^ s.readV y)).advance

/-- R157. -/
def execAddReg (x y : Reg) (s : State) : Host.Outcome State Fault Refusal :=
  .next (writeFlagged s x (s.readV x + s.readV y) (carryOf (s.readV x) (s.readV y))).advance

/-- R158. -/
def execSubReg (x y : Reg) (s : State) : Host.Outcome State Fault Refusal :=
  .next (writeFlagged s x (s.readV x - s.readV y) (noBorrow (s.readV x) (s.readV y))).advance

/-- R159: the result goes to `Vx` (D9). -/
def execSubRegRev (x y : Reg) (s : State) : Host.Outcome State Fault Refusal :=
  .next (writeFlagged s x (s.readV y - s.readV x) (noBorrow (s.readV y) (s.readV x))).advance

/-- R160. -/
def execRightShiftReg (x y : Reg) (s : State) : Host.Outcome State Fault Refusal :=
  .next (writeFlagged s x (shiftOperand s x y >>> 1) (lowBit (shiftOperand s x y))).advance

/-- R161. -/
def execLeftShiftReg (x y : Reg) (s : State) : Host.Outcome State Fault Refusal :=
  .next (writeFlagged s x (shiftOperand s x y <<< 1) (highBit (shiftOperand s x y))).advance

/-- RandomNumber for the random byte `r` (R170). -/
def randomNumberWith (r : Byte) (x : Reg) (kk : Byte) (s : State) : Host.Outcome State Fault Refusal :=
  .next (s.writeV x (r &&& kk)).countDraw.advance

/-- R170: `draw_rand()` answers a fresh free byte at each execution. -/
def execRandomNumber (x : Reg) (kk : Byte) (s : State) : Host.Outcome State Fault Refusal :=
  randomNumberWith (Config.freeRand s.draws) x kk s

end Sys2Proof.Machine
end

