-- ==== Sys2Proof/Machine/Control.lean ====
section
/-! DEFINITION. The control-flow instructions (spec/41_control_flow.md R130 to R137). -/

namespace Sys2Proof.Machine

/-- R130. -/
def execReturnFromSub (s : State) : Host.Outcome State Fault Refusal :=
  match pop s with
  | .error f => raise f
  | .ok (target, t) => .next (t.setPC target)

/-- R131. -/
def execJump (nnn : Lit12) (s : State) : Host.Outcome State Fault Refusal :=
  .next (s.setPC (zext16 nnn))

/-- R132. -/
def execCall (nnn : Lit12) (s : State) : Host.Outcome State Fault Refusal :=
  match push s (s.PC + 2) with
  | .error f => raise f
  | .ok t => .next (t.setPC (zext16 nnn))

/-- R133: the register is always `V0`, and the sum is not masked. -/
def execJumpIndirect (nnn : Lit12) (s : State) : Host.Outcome State Fault Refusal :=
  .next (s.setPC (zext16 nnn + zext16 (s.readV 0)))

/-- R134. -/
def execSkipEquals (x : Reg) (kk : Byte) (s : State) : Host.Outcome State Fault Refusal :=
  .next (s.skipIf (s.readV x == kk))

/-- R135. -/
def execSkipNotEquals (x : Reg) (kk : Byte) (s : State) : Host.Outcome State Fault Refusal :=
  .next (s.skipIf (s.readV x != kk))

/-- R136. -/
def execSkipRegEquals (x y : Reg) (s : State) : Host.Outcome State Fault Refusal :=
  .next (s.skipIf (s.readV x == s.readV y))

/-- R137. -/
def execSkipRegNotEquals (x y : Reg) (s : State) : Host.Outcome State Fault Refusal :=
  .next (s.skipIf (s.readV x != s.readV y))

end Sys2Proof.Machine
end

