-- ==== Sys2Proof/Machine/Devices.lean ====
section
/-! DEFINITION. The display, keypad and timer instructions (spec/44_io_timers_keys.md R200 to R207). The tick is the
step's (R114). -/

namespace Sys2Proof.Machine

/-- R200. -/
def execClearScreen (s : State) : Host.Outcome State Fault Refusal :=
  .next (s.emit .clear).advance

/-- DrawSprite for the display's collision answer `c` (R201): the coordinates and the bytes are read before `VF` is
written, and a failing step emits nothing. -/
def drawSpriteWith (c : Bool) (x y : Reg) (n : Count) (s : State) : Host.Outcome State Fault Refusal :=
  match readBytes s (s.addrI 0) n.val with
  | .error f => raise f
  | .ok bytes =>
    .next ((s.emit (.draw (s.readV x) (s.readV y) bytes)).writeV Reg.VF (flagByte c)).countDraw.advance

/-- R201: the collision answer is a fresh free boolean at each execution (D14). -/
def execDrawSprite (x y : Reg) (n : Count) (s : State) : Host.Outcome State Fault Refusal :=
  drawSpriteWith (Config.freeCollision s.draws) x y n s

/-- R202. -/
def execKeyIsPressed (x : Reg) (s : State) : Host.Outcome State Fault Refusal :=
  .next (s.skipIf (s.key (lowNibble (s.readV x))))

/-- R203. -/
def execKeyIsntPressed (x : Reg) (s : State) : Host.Outcome State Fault Refusal :=
  .next (s.skipIf (!s.key (lowNibble (s.readV x))))

/-- R204: the value before this step's tick. -/
def execReadDelayTimer (x : Reg) (s : State) : Host.Outcome State Fault Refusal :=
  .next (s.writeV x s.DT).advance

/-- R205: with no key pressed `PC` stays, and the next step executes the instruction again. -/
def execAwaitKeyPress (x : Reg) (s : State) : Host.Outcome State Fault Refusal :=
  match s.lowestKey with
  | some k => .next (s.writeV x (BitVec.ofNat 8 k.val)).advance
  | none => .next s

/-- R206. -/
def execSetDelayTimer (x : Reg) (s : State) : Host.Outcome State Fault Refusal :=
  .next (s.writeDT (s.readV x)).advance

/-- R207. -/
def execSetSoundTimer (x : Reg) (s : State) : Host.Outcome State Fault Refusal :=
  .next (s.writeST (s.readV x)).advance

end Sys2Proof.Machine
end

