-- ==== Sys2Proof/Machine/Invalid.lean ====
section
/-! DEFINITION. The legacy system call and the unknown words (spec/45_invalid.md R220, R221). -/

namespace Sys2Proof.Machine

/-- R220: always `UnsupportedInstruction`. -/
def execSysCall (nnn : Lit12) (s : State) : Host.Outcome State Fault Refusal :=
  raise (.unsupportedInstruction s.PC nnn)

/-- R221: always `InvalidOpcode`. -/
def execUnknown (raw : Word) (s : State) : Host.Outcome State Fault Refusal :=
  raise (.invalidOpcode s.PC raw)

end Sys2Proof.Machine
end

