-- ==== Sys2Proof/Machine/Transfer.lean ====
section
/-! DEFINITION. The address-register and memory instructions (spec/43_address_memory.md R180 to R187). -/

namespace Sys2Proof.Machine

/-- R180. -/
def execSetAddressReg (nnn : Lit12) (s : State) : Host.Outcome State Fault Refusal :=
  .next (s.writeI (zext16 nnn)).advance

/-- R181: `VF` is not written. -/
def execAddAddressReg (x : Reg) (s : State) : Host.Outcome State Fault Refusal :=
  match addToI s (s.readV x).toNat with
  | .error f => raise f
  | .ok t => .next t.advance

/-- AddressKeySprite for a given `FONT_BASE` and `GLYPH_STRIDE` (R182, D13): memory is not read. -/
def addressKeySpriteWith (base stride : BitVec 12) (x : Reg) (s : State) : Host.Outcome State Fault Refusal :=
  .next (s.writeI (glyphAddress base stride (lowNibble (s.readV x)))).advance

/-- R182, for the machine's own font, which the spec leaves OPEN. -/
def execAddressKeySprite (x : Reg) (s : State) : Host.Outcome State Fault Refusal :=
  addressKeySpriteWith Config.fontBase Config.glyphStride x s

/-- R183. -/
def execStoreBCDAtAddress (x : Reg) (s : State) : Host.Outcome State Fault Refusal :=
  match writeBytes s (s.addrI 0) (bcdDigits (s.readV x)) with
  | .error f => raise f
  | .ok t => .next t.advance

/-- R185: the bounds check comes before the increment (R240). -/
def execStoreRegisters (x : Reg) (s : State) : Host.Outcome State Fault Refusal :=
  match writeBytes s (s.addrI 0) (s.valuesUpTo x) with
  | .error f => raise f
  | .ok t =>
    match applyLdstIncrement t x with
    | .error f => raise f
    | .ok u => .next u.advance

/-- R187: with `x = 0xF`, `VF` is loaded as an ordinary destination. -/
def execLoadRegisters (x : Reg) (s : State) : Host.Outcome State Fault Refusal :=
  match readBytes s (s.addrI 0) (x.val + 1) with
  | .error f => raise f
  | .ok bs =>
    match applyLdstIncrement (s.loadV bs) x with
    | .error f => raise f
    | .ok u => .next u.advance

end Sys2Proof.Machine
end

