-- ==== Sys2Proof/Machine/Dispatch.lean ====
section
/-! DEFINITION. Execution dispatches on the decoded variant alone (spec/40_step.md R113). -/

namespace Sys2Proof.Machine

def exec (i : Instr) (s : State) : Host.Outcome State Fault Refusal :=
  match i with
  | .clearScreen => Sys2Proof.Machine.execClearScreen s
  | .returnFromSub => Sys2Proof.Machine.execReturnFromSub s
  | .sysCall nnn => Sys2Proof.Machine.execSysCall nnn s
  | .jump nnn => Sys2Proof.Machine.execJump nnn s
  | .call nnn => Sys2Proof.Machine.execCall nnn s
  | .skipEquals x kk => Sys2Proof.Machine.execSkipEquals x kk s
  | .skipNotEquals x kk => Sys2Proof.Machine.execSkipNotEquals x kk s
  | .skipRegEquals x y => Sys2Proof.Machine.execSkipRegEquals x y s
  | .setReg x kk => Sys2Proof.Machine.execSetReg x kk s
  | .addConst x kk => Sys2Proof.Machine.execAddConst x kk s
  | .copyReg x y => Sys2Proof.Machine.execCopyReg x y s
  | .orReg x y => Sys2Proof.Machine.execOrReg x y s
  | .andReg x y => Sys2Proof.Machine.execAndReg x y s
  | .xorReg x y => Sys2Proof.Machine.execXorReg x y s
  | .addReg x y => Sys2Proof.Machine.execAddReg x y s
  | .subReg x y => Sys2Proof.Machine.execSubReg x y s
  | .rightShiftReg x y => Sys2Proof.Machine.execRightShiftReg x y s
  | .subRegRev x y => Sys2Proof.Machine.execSubRegRev x y s
  | .leftShiftReg x y => Sys2Proof.Machine.execLeftShiftReg x y s
  | .skipRegNotEquals x y => Sys2Proof.Machine.execSkipRegNotEquals x y s
  | .setAddressReg nnn => Sys2Proof.Machine.execSetAddressReg nnn s
  | .jumpIndirect nnn => Sys2Proof.Machine.execJumpIndirect nnn s
  | .randomNumber x kk => Sys2Proof.Machine.execRandomNumber x kk s
  | .drawSprite x y n => Sys2Proof.Machine.execDrawSprite x y n s
  | .keyIsPressed x => Sys2Proof.Machine.execKeyIsPressed x s
  | .keyIsntPressed x => Sys2Proof.Machine.execKeyIsntPressed x s
  | .readDelayTimer x => Sys2Proof.Machine.execReadDelayTimer x s
  | .awaitKeyPress x => Sys2Proof.Machine.execAwaitKeyPress x s
  | .setDelayTimer x => Sys2Proof.Machine.execSetDelayTimer x s
  | .setSoundTimer x => Sys2Proof.Machine.execSetSoundTimer x s
  | .addAddressReg x => Sys2Proof.Machine.execAddAddressReg x s
  | .addressKeySprite x => Sys2Proof.Machine.execAddressKeySprite x s
  | .storeBCDAtAddress x => Sys2Proof.Machine.execStoreBCDAtAddress x s
  | .storeRegisters x => Sys2Proof.Machine.execStoreRegisters x s
  | .loadRegisters x => Sys2Proof.Machine.execLoadRegisters x s
  | .unknown raw => Sys2Proof.Machine.execUnknown raw s

end Sys2Proof.Machine
end

