-- ==== Sys2Proof/Machine/Step.lean ====
section
/-! DEFINITION. The step (spec/40_step.md R110, R111): fetch, decode, execute, tick, count. -/

namespace Sys2Proof.Machine

/-- One step (R111). The instruction is fetched and decoded before it executes, so a store into its own bytes does not
change it (R63). A step that returns an error does not tick, advance or count (R115). The events of R110 are the next
state's `events`. -/
def step (s : State) : Host.Outcome State Fault Refusal :=
  match fetchWord s with
  | .error f => raise f
  | .ok w =>
    match exec (decodeWord s.params.strict59 w) s.beginStep with
    | .next t => .next t.endStep
    | .fault f => .fault f
    | .refused r => .refused r

/-- `s` with the instruction word `w` (numbered as spec/opcode_table.json numbers it) stored big-endian at `PC`. Where
`PC` is 4095 or more no word can be fetched (R56), and `s` is unchanged. Log entry 6. -/
def State.withFetchWord (s : State) (nbits w : Nat) : State :=
  storeWordAt s s.PC.toNat (BitVec.ofNat 16 (w % 2 ^ nbits))

end Sys2Proof.Machine
end

