-- ==== Sys2Proof/Machine/Boot.lean ====
section
/-! DEFINITION. Reset as the construction of the machine from a ROM (spec/70_reset_and_hazards.md R270, R272). The
ROM copy is no machine store: it raises nothing, and a ROM that is too long loses its tail. -/

namespace Sys2Proof.Machine

/-- Bytes copied to ascending addresses of a memory. -/
def Memory.copyIn (m : Memory) (addr : Nat) : List Byte → Memory
  | [] => m
  | v :: vs => Memory.copyIn (m.set addr v) (addr + 1) vs

/-- Memory at reset (R272): `FONT_IMAGE` below 0x200, then the ROM, truncated to 3584 bytes, then zeros. The rule reads
512 bytes of `FONT_IMAGE`; a shorter list is filled with zeros and a longer one cut (DESIGN CHOICE, log entry 17). -/
def bootMemory (fontImage rom : List Byte) : Memory :=
  Memory.copyIn (Memory.copyIn [] 0 (fontImage.take Config.programOrigin)) Config.programOrigin (rom.take Config.romMax)

/-- The machine constructed from a ROM, under a font image and values of the parameters (R270, R274). -/
def construct (params : Params) (fontImage rom : List Byte) : State :=
  { State.reset with M := bootMemory fontImage rom, params := params }

end Sys2Proof.Machine
end

