-- ==== Sys2Proof/Machine/Run.lean ====
section
/-! DEFINITION. What the host may do between steps, and runs (spec/40_step.md R118 to R120, spec/60_exceptions.md R250
to R255). -/

namespace Sys2Proof.Machine

/-- A host action that changes the machine (R255): "A model gives the host no other move that writes them". -/
inductive HostAction
  /-- The host sets and clears keypad flags (R252). -/
  | setKeys (keys : Vector Bool 16)
  /-- The host ticks the timers; only with `TICK_MODE = external` (R118). -/
  | tick
deriving DecidableEq, Repr

/-- The effect of a host action, none where the host has no such action (R118). -/
def hostAct : HostAction → State → Option State
  | .setKeys keys, s => some { s with KEY := keys }
  | .tick, s =>
    match s.params.tickMode with
    | .perStep => none
    | .external => some (Machine.tick s)

/-- What the audio host polls between steps (R253). -/
def soundOutput (s : State) : Byte := s.ST

/-- One item of a run: a step of the core, or a host action (R120). -/
inductive Action
  | step
  | host (a : HostAction)
deriving DecidableEq, Repr

/-- A run (R120): steps separated by host actions. It ends at the first error, which leaves no state; a host action that
does not exist leaves the state as it is. -/
def runActions : List Action → State → Host.Outcome State Fault Refusal
  | [], s => .next s
  | .step :: as, s =>
    match Machine.step s with
    | .next t => runActions as t
    | .fault f => .fault f
    | .refused r => .refused r
  | .host a :: as, s => runActions as ((hostAct a s).getD s)

end Sys2Proof.Machine
end

