-- ==== Sys2Proof/Safety.lean ====
section
/-! DEFINITION. The terms the statements are written in: frames, the errors R238 tabulates, safe runs and the
machine's invariant. -/

namespace Sys2Proof.Machine

/-! ## Frames -/

/-- One observable part of the state: a register, a stack entry, a key, a byte of memory, and so on. -/
inductive Field
  | V (r : Reg)
  | I
  | PC
  | stack (k : Fin 16)
  | depth
  | DT
  | ST
  | key (k : Key)
  | cycles
  | mem (a : Nat)
  | events
  | draws
  | params
deriving DecidableEq, Repr

/-- The part holds the same value in both states; a byte of memory is compared by reading it. -/
def Field.same : Field → State → State → Prop
  | .V r, s, t => t.readV r = s.readV r
  | .I, s, t => t.I = s.I
  | .PC, s, t => t.PC = s.PC
  | .stack k, s, t => t.stack[k.val] = s.stack[k.val]
  | .depth, s, t => t.depth = s.depth
  | .DT, s, t => t.DT = s.DT
  | .ST, s, t => t.ST = s.ST
  | .key k, s, t => t.key k = s.key k
  | .cycles, s, t => t.cycles = s.cycles
  | .mem a, s, t => t.M.get a = s.M.get a
  | .events, s, t => t.events = s.events
  | .draws, s, t => t.draws = s.draws
  | .params, s, t => t.params = s.params

/-- Everything but the parts `writes` names is the same in `t` as in `s`. -/
def Frame (writes : Field → Prop) (s t : State) : Prop := ∀ f, ¬ writes f → f.same s t

/-- What `write_flagged` leaves in `Vx` and `VF` (R156): for `x = VF` the write that `VF_WRITE_ORDER` puts last. -/
def FlaggedWrite (s t : State) (x : Reg) (result flag : Nat) : Prop :=
  (x ≠ Reg.VF → (t.readV x).toNat = result ∧ (t.readV Reg.VF).toNat = flag) ∧
  (x = Reg.VF → s.params.vfWriteOrder = .flagLast → (t.readV Reg.VF).toNat = flag) ∧
  (x = Reg.VF → s.params.vfWriteOrder = .resultLast → (t.readV Reg.VF).toNat = result)

/-- What a transfer of `V0` to `Vx` leaves in `I`, for each value of `LDST_I_INCREMENT` (R186). -/
def IncrementedI (s t : State) (x : Reg) : Prop :=
  (s.params.ldstIncrement = .none → t.I = s.I) ∧
  (s.params.ldstIncrement = .nPlus1 → t.I.toNat = s.I.toNat + x.val + 1) ∧
  (s.params.ldstIncrement = .n → t.I.toNat = s.I.toNat + x.val)

/-! ## Errors -/

/-- The `PC` an error records (R239). -/
def Fault.pc : Fault → Word
  | .invalidOpcode pc _ => pc
  | .unsupportedInstruction pc _ => pc
  | .stackOverflow pc => pc
  | .stackUnderflow pc => pc
  | .outOfBoundsAccess pc _ => pc
  | .addressRegOverflow pc _ => pc

/-- The error of a transfer of `n` bytes from `base` up, if any: the first address that is 4096 or more (R59). -/
def transferError (s : State) (base n : Nat) : Option Fault :=
  if n = 0 then none
  else if base + n - 1 < Config.memSize then none
  else some (.outOfBoundsAccess s.PC (max base Config.memSize))

/-- The table of R238 but its fetch row: the error an instruction raises in a state, if any, with what R239 has it
record. -/
def tabulatedError : Instr → State → Option Fault
  | .returnFromSub, s => if s.depth.val = 0 then some (.stackUnderflow s.PC) else none
  | .call _, s => if s.depth.val = 16 then some (.stackOverflow s.PC) else none
  | .addAddressReg x, s =>
    if s.I.toNat + (s.readV x).toNat > 0xFFFF ∧ s.params.iOverflow = .fault then
      some (.addressRegOverflow s.PC (s.I.toNat + (s.readV x).toNat))
    else none
  | .drawSprite _ _ n, s => transferError s s.I.toNat n.val
  | .storeBCDAtAddress _, s => transferError s s.I.toNat 3
  | .storeRegisters x, s => transferError s s.I.toNat (x.val + 1)
  | .loadRegisters x, s => transferError s s.I.toNat (x.val + 1)
  | .sysCall nnn, s => some (.unsupportedInstruction s.PC nnn)
  | .unknown w, s => some (.invalidOpcode s.PC w)
  | .clearScreen, _ | .jump _, _ | .jumpIndirect _, _ | .skipEquals _ _, _ | .skipNotEquals _ _, _ => none
  | .skipRegEquals _ _, _ | .skipRegNotEquals _ _, _ | .setReg _ _, _ | .addConst _ _, _ => none
  | .copyReg _ _, _ | .orReg _ _, _ | .andReg _ _, _ | .xorReg _ _, _ | .addReg _ _, _ => none
  | .subReg _ _, _ | .subRegRev _ _, _ | .rightShiftReg _ _, _ | .leftShiftReg _ _, _ => none
  | .setAddressReg _, _ | .randomNumber _ _, _ | .keyIsPressed _, _ | .keyIsntPressed _, _ => none
  | .readDelayTimer _, _ | .awaitKeyPress _, _ | .setDelayTimer _, _ | .setSoundTimer _, _ => none
  | .addressKeySprite _, _ => none

/-- The word at `PC`, without the fetch's bound check. -/
def wordAtPC (s : State) : Word := wordOfBytes (s.M.get s.PC.toNat) (s.M.get (s.PC.toNat + 1))

/-- The instruction a step executes, where the fetch succeeds. -/
def fetchedInstr (s : State) : Instr := decodeWord s.params.strict59 (wordAtPC s)

/-- A step that can be taken: the fetch is in bounds and the instruction raises nothing (R238). -/
def StepSafe (s : State) : Prop := s.PC.toNat < 4095 ∧ tabulatedError (fetchedInstr s) s = none

/-- A safe run: `k` steps from `s` with no host action between them reach a state. -/
def SafeRun (k : Nat) (s : State) : Prop := ∃ t, Host.Core.run Sys2Proof.core k s = .next t

/-! ## Sequences of instructions, without fetch or tick -/

/-- The instructions executed one after the other. -/
def execAll : List Instr → State → Host.Outcome State Fault Refusal
  | [], s => .next s
  | i :: is, s =>
    match exec i s with
    | .next t => execAll is t
    | .fault f => .fault f
    | .refused r => .refused r

/-- An outcome with its next state, if there is one, changed by `g`. -/
def mapNext (g : State → State) : Host.Outcome State Fault Refusal → Host.Outcome State Fault Refusal
  | .next t => .next (g t)
  | .fault f => .fault f
  | .refused r => .refused r

/-! ## The invariant -/

/-- Memory has its canonical form, and `PC` and every live return address are in the ranges R26 gives. -/
def Inv (s : State) : Prop :=
  s.M.wf ∧ s.PC.toNat ≤ 0x10FE ∧ ∀ k : Fin 16, k.val < s.depth.val → (s.stack[k.val]).toNat ≤ 4096

end Sys2Proof.Machine
end

