-- ==== Sys2Proof/Certificates/Slice0/Obligations.lean ====
section
/-! DEFINITION. The statements for the provers. Each docstring names the rule of spec/ it formalises. A register, a
byte of memory and so on that a statement does not name is covered by its `Frame` clause. -/

open Sys2Proof Sys2Proof.Machine

/-! ## Decoding -/

/-- R92, for every well-formed instruction and both values of `STRICT_5_9`: the word of an instruction decodes to it,
with every operand at every value. -/
def Obligations.DecodeOfEncodeIsIdentity : Prop :=
  ∀ (strict : Bool) (i : Instr), i.wf strict = true → decodeWord strict (encode i) = i

/-- R92: `encode(decode(w)) = w` for every word under `STRICT_5_9 = true`, so that decoding is injective; under
`false` it is not. -/
def Obligations.EncodeOfDecodeIsIdentity : Prop :=
  (∀ w : Word, encode (decodeWord true w) = w) ∧
  (∃ w w' : Word, w ≠ w' ∧ decodeWord false w = decodeWord false w')

/-- R71: every word decodes to a variant whose tag is in 0..35, and that variant is well-formed. R70 and R73: every
port is driven with its slice of the word, whatever the tag. -/
def Obligations.PortsDriveTheFieldsOfEveryWord : Prop :=
  ∀ (strict : Bool) (w : Word),
    (decodeWord strict w).wf strict = true ∧
    (decoderPorts strict w).tag = (decodeWord strict w).tag ∧ (decoderPorts strict w).tag.toNat ≤ 35 ∧
    (decoderPorts strict w).x.toNat = w.toNat / 256 % 16 ∧ (decoderPorts strict w).y.toNat = w.toNat / 16 % 16 ∧
    (decoderPorts strict w).n.toNat = w.toNat % 16 ∧ (decoderPorts strict w).kk.toNat = w.toNat % 256 ∧
    (decoderPorts strict w).nnn.toNat = w.toNat % 4096 ∧ (decoderPorts strict w).raw = w

/-- R86: `Unknown` is the result for, and only for, the words listed in R89, and it carries the whole word. -/
def Obligations.UnknownIsExactlyTheListedWords : Prop :=
  ∀ (strict : Bool) (w u : Word), decodeWord strict w = .unknown u ↔ isUnknownWord strict w = true ∧ u = w

/-- R88: every word matches at most one row of the opcode map, and decodes to the variant of the row it matches, or to
`Unknown` when it matches none. -/
def Obligations.DecodeFollowsTheOpcodeMap : Prop :=
  ∀ (strict : Bool) (w : Word),
    (∀ row ∈ opcodeTable strict, ∀ row' ∈ opcodeTable strict,
      rowMatches row w = true → rowMatches row' w = true → row = row') ∧
    (∀ row ∈ opcodeTable strict, rowMatches row w = true → (decodeWord strict w).tag = row.2.2) ∧
    ((∀ row ∈ opcodeTable strict, rowMatches row w = false) → decodeWord strict w = .unknown w)

/-- Words written out from R78 to R85, one or more of each of the 16 families (R14), decode to the instructions they stand
for (spec/95_test_vectors.md Part 2). -/
def Obligations.SampleWordsDecode : Prop :=
  decodeWord true 0x00E0 = .clearScreen ∧ decodeWord true 0x00EE = .returnFromSub ∧
  decodeWord true 0x0123 = .sysCall 0x123 ∧ decodeWord true 0x10EE = .jump 0x0EE ∧
  decodeWord true 0x2ABC = .call 0xABC ∧ decodeWord true 0x3A06 = .skipEquals 0xA 0x06 ∧
  decodeWord true 0x4B7F = .skipNotEquals 0xB 0x7F ∧ decodeWord true 0x5121 = .unknown 0x5121 ∧
  decodeWord true 0x6A05 = .setReg 0xA 0x05 ∧ decodeWord true 0x7A01 = .addConst 0xA 0x01 ∧
  decodeWord false 0x5121 = .skipRegEquals 1 2 ∧ decodeWord true 0x8127 = .subRegRev 1 2 ∧
  decodeWord true 0x9120 = .skipRegNotEquals 1 2 ∧ decodeWord true 0xA300 = .setAddressReg 0x300 ∧
  decodeWord true 0xBFFF = .jumpIndirect 0xFFF ∧ decodeWord true 0xC30F = .randomNumber 3 0x0F ∧
  decodeWord true 0xD3A7 = .drawSprite 3 0xA 7 ∧ decodeWord true 0xE49E = .keyIsPressed 4 ∧
  decodeWord true 0xF265 = .loadRegisters 2 ∧ decodeWord true 0xF030 = .unknown 0xF030

/-! ## The step -/

/-- R111, R55, R57, R37, R114, R115: where the two bytes at `PC`, odd or even, decode to `i`, the step is the
execution of `i` on the state with no display request yet, and where it succeeds one cycle is counted and, under
`TICK_MODE = per_step`, the timers tick once; an error is the step's outcome. -/
def Obligations.StepRunsTheDecodedInstruction : Prop :=
  ∀ (s : State) (i : Instr), s.PC.toNat < 4095 →
    decodeWord s.params.strict59 (s.M.get s.PC.toNat ++ s.M.get (s.PC.toNat + 1)) = i →
    (s.beginStep.events = [] ∧ Frame (· = .events) s s.beginStep) ∧
    (∀ t, exec i s.beginStep = .next t → ∃ u, step s = .next u ∧
      u.cycles = t.cycles + 1 ∧
      (s.params.tickMode = .perStep → u.DT.toNat = t.DT.toNat - 1 ∧ u.ST.toNat = t.ST.toNat - 1) ∧
      (s.params.tickMode = .external → u.DT = t.DT ∧ u.ST = t.ST) ∧
      Frame (· ∈ [.DT, .ST, .cycles]) t u) ∧
    (∀ f, exec i s.beginStep = .fault f → step s = .fault f)

/-- R56: the fetch raises `OutOfBoundsAccess(PC)` when `PC ≥ 4095`, and nothing of the step is executed. -/
def Obligations.FetchOutOfBoundsEndsTheStep : Prop :=
  ∀ s : State, 4095 ≤ s.PC.toNat → step s = .fault (.outOfBoundsAccess s.PC s.PC.toNat)

/-- R63, R278, R55: two bytes stored at an address by the machine's own stores are the word a later fetch at that
address sees, the first of them as its upper half, whatever happened to the rest of the state. -/
def Obligations.FetchSeesStoredBytes : Prop :=
  ∀ (s t u : State) (a : Nat) (hi lo : Byte), writeBytes s a [hi, lo] = .ok t →
    u.M = t.M → u.PC.toNat = a → ∃ w, fetchWord u = .ok w ∧ w.toNat = hi.toNat * 256 + lo.toNat

/-- The model's own: `withFetchWord` places the word where the next step fetches it, and changes only those two bytes
(log entry 6). -/
def Obligations.WithFetchWordIsFetchedNext : Prop :=
  ∀ (s : State) (w : Nat), s.PC.toNat < 4095 → w < 65536 →
    fetchWord (s.withFetchWord 16 w) = .ok (BitVec.ofNat 16 w) ∧
    Frame (fun f => f = .mem s.PC.toNat ∨ f = .mem (s.PC.toNat + 1)) s (s.withFetchWord 16 w)

/-! ## Control flow -/

/-- R131. -/
def Obligations.JumpSetsPC : Prop :=
  ∀ (nnn : Lit12) (s : State), ∃ t, exec (.jump nnn) s = .next t ∧ t.PC.toNat = nnn.toNat ∧ Frame (· = .PC) s t

/-- R133: the exact sum of `nnn` and `V0`. That the sum is not masked is the spec's decision D26. -/
def Obligations.JumpIndirectAddsV0 : Prop :=
  ∀ (nnn : Lit12) (s : State), ∃ t, exec (.jumpIndirect nnn) s = .next t ∧
    t.PC.toNat = nnn.toNat + (s.readV 0).toNat ∧ Frame (· = .PC) s t

/-- R132, R34: Call pushes `PC + 2` and jumps, while fewer than 16 addresses are on the stack; else it raises
`StackOverflow`. -/
def Obligations.CallPushesTheReturnAddress : Prop :=
  ∀ (nnn : Lit12) (s : State),
    (∀ h : s.depth.val < 16, ∃ t, exec (.call nnn) s = .next t ∧
      t.stack[s.depth.val] = s.PC + 2 ∧ t.depth.val = s.depth.val + 1 ∧ t.PC.toNat = nnn.toNat ∧
      Frame (· ∈ [.stack ⟨s.depth.val, h⟩, .depth, .PC]) s t) ∧
    (s.depth.val = 16 → exec (.call nnn) s = .fault (.stackOverflow s.PC))

/-- R130, R35: ReturnFromSub pops the top of the stack into `PC`, unchecked; on an empty stack it raises
`StackUnderflow`. That the popped entry, which no rule reads (R33), keeps its value is the model's choice (log entry
10). -/
def Obligations.ReturnPopsIntoPC : Prop :=
  ∀ s : State,
    (∀ h : s.depth.val ≠ 0, ∃ t, exec .returnFromSub s = .next t ∧
      t.PC = s.stack[s.depth.val - 1]'(by omega) ∧ t.depth.val = s.depth.val - 1 ∧ Frame (· ∈ [.depth, .PC]) s t) ∧
    (s.depth.val = 0 → exec .returnFromSub s = .fault (.stackUnderflow s.PC))

/-- W6: any number of calls that fit on the stack, then as many returns, come back behind the first call, with the stack
as it was; one call more than fit raises `StackOverflow`. -/
def Obligations.NestedCallsReturnInReverse : Prop :=
  ∀ (s : State) (targets : List Lit12), targets ≠ [] →
    (s.depth.val + targets.length ≤ 16 →
      ∃ t u, execAll (targets.map .call) s = .next t ∧ t.depth.val = s.depth.val + targets.length ∧
        execAll (List.replicate targets.length .returnFromSub) t = .next u ∧
        u.PC = s.PC + 2 ∧ u.depth = s.depth ∧
        ∀ k : Fin 16, k.val < s.depth.val → u.stack[k.val] = s.stack[k.val]) ∧
    (16 < s.depth.val + targets.length → ∃ pc, execAll (targets.map .call) s = .fault (.stackOverflow pc))

/-- R134 to R137: each skip advances `PC` by 4 when its condition holds and by 2 when it does not. -/
def Obligations.SkipsCompareAndAdvance : Prop :=
  ∀ (x y : Reg) (kk : Byte) (s : State),
    (∃ t, exec (.skipEquals x kk) s = .next t ∧
      t.PC = (if s.readV x = kk then s.PC + 4 else s.PC + 2) ∧ Frame (· = .PC) s t) ∧
    (∃ t, exec (.skipNotEquals x kk) s = .next t ∧
      t.PC = (if s.readV x = kk then s.PC + 2 else s.PC + 4) ∧ Frame (· = .PC) s t) ∧
    (∃ t, exec (.skipRegEquals x y) s = .next t ∧
      t.PC = (if s.readV x = s.readV y then s.PC + 4 else s.PC + 2) ∧ Frame (· = .PC) s t) ∧
    (∃ t, exec (.skipRegNotEquals x y) s = .next t ∧
      t.PC = (if s.readV x = s.readV y then s.PC + 2 else s.PC + 4) ∧ Frame (· = .PC) s t)

/-! ## Register and ALU instructions -/

/-- R150 to R155: the value of the destination, `PC + 2`, and nothing else; no flag is set. -/
def Obligations.ImmediateAndBitwiseResults : Prop :=
  ∀ (x y : Reg) (kk : Byte) (s : State),
    (∃ t, exec (.setReg x kk) s = .next t ∧ t.readV x = kk ∧ t.PC = s.PC + 2 ∧ Frame (· ∈ [.V x, .PC]) s t) ∧
    (∃ t, exec (.addConst x kk) s = .next t ∧ (t.readV x).toNat = ((s.readV x).toNat + kk.toNat) % 256 ∧
      t.PC = s.PC + 2 ∧ Frame (· ∈ [.V x, .PC]) s t) ∧
    (∃ t, exec (.copyReg x y) s = .next t ∧ t.readV x = s.readV y ∧ t.PC = s.PC + 2 ∧
      Frame (· ∈ [.V x, .PC]) s t) ∧
    (∃ t, exec (.orReg x y) s = .next t ∧ t.readV x = s.readV x ||| s.readV y ∧ t.PC = s.PC + 2 ∧
      Frame (· ∈ [.V x, .PC]) s t) ∧
    (∃ t, exec (.andReg x y) s = .next t ∧ t.readV x = s.readV x &&& s.readV y ∧ t.PC = s.PC + 2 ∧
      Frame (· ∈ [.V x, .PC]) s t) ∧
    (∃ t, exec (.xorReg x y) s = .next t ∧ t.readV x = s.readV x ^^^ s.readV y ∧ t.PC = s.PC + 2 ∧
      Frame (· ∈ [.V x, .PC]) s t)

/-- R157, R156: the sum modulo 256 and the carry, in either order of the two writes. -/
def Obligations.AddRegSumAndCarry : Prop :=
  ∀ (x y : Reg) (s : State), ∃ t, exec (.addReg x y) s = .next t ∧
    FlaggedWrite s t x (((s.readV x).toNat + (s.readV y).toNat) % 256)
      (if (s.readV x).toNat + (s.readV y).toNat > 255 then 1 else 0) ∧
    t.PC = s.PC + 2 ∧ Frame (· ∈ [.V x, .V Reg.VF, .PC]) s t

/-- R158, R156: the difference modulo 256, and `VF = 1` when there is no borrow. -/
def Obligations.SubRegDifferenceAndNoBorrow : Prop :=
  ∀ (x y : Reg) (s : State), ∃ t, exec (.subReg x y) s = .next t ∧
    FlaggedWrite s t x ((256 + (s.readV x).toNat - (s.readV y).toNat) % 256)
      (if (s.readV y).toNat ≤ (s.readV x).toNat then 1 else 0) ∧
    t.PC = s.PC + 2 ∧ Frame (· ∈ [.V x, .V Reg.VF, .PC]) s t

/-- R159, R156: the reversed difference and borrow. That the result goes to `Vx` is the spec's decision D9. -/
def Obligations.SubRegRevDifferenceAndNoBorrow : Prop :=
  ∀ (x y : Reg) (s : State), ∃ t, exec (.subRegRev x y) s = .next t ∧
    FlaggedWrite s t x ((256 + (s.readV y).toNat - (s.readV x).toNat) % 256)
      (if (s.readV x).toNat ≤ (s.readV y).toNat then 1 else 0) ∧
    t.PC = s.PC + 2 ∧ Frame (· ∈ [.V x, .V Reg.VF, .PC]) s t

/-- R163, W8: the two subtractions on the same two values give results that sum to 0 modulo 256, and flags that sum to 1,
or to 2 when the values are equal. -/
def Obligations.SubtractionsWrapAroundIdentity : Prop :=
  ∀ (x y : Reg) (s t u : State), x ≠ Reg.VF → exec (.subReg x y) s = .next t → exec (.subRegRev x y) s = .next u →
    ((t.readV x).toNat + (u.readV x).toNat) % 256 = 0 ∧
    (t.readV Reg.VF).toNat + (u.readV Reg.VF).toNat = (if s.readV x = s.readV y then 2 else 1)

/-- R160, R161, R162, R156: the shifted source, which is `Vx` or, under `SHIFT_SOURCE = Vy`, `Vy`, and the bit shifted
out. -/
def Obligations.ShiftsResultAndShiftedOutBit : Prop :=
  ∀ (x y : Reg) (s : State) (src : Nat),
    (s.params.shiftSource = .vx → src = (s.readV x).toNat) → (s.params.shiftSource = .vy → src = (s.readV y).toNat) →
    (∃ t, exec (.rightShiftReg x y) s = .next t ∧ FlaggedWrite s t x (src / 2) (src % 2) ∧
      t.PC = s.PC + 2 ∧ Frame (· ∈ [.V x, .V Reg.VF, .PC]) s t) ∧
    (∃ t, exec (.leftShiftReg x y) s = .next t ∧ FlaggedWrite s t x (src * 2 % 256) (src / 128) ∧
      t.PC = s.PC + 2 ∧ Frame (· ∈ [.V x, .V Reg.VF, .PC]) s t)

/-- R170: the random byte and the mask, for every byte the source may answer. That the byte is the opaque
`Config.freeRand` applied to the draw counter, and that an execution takes the counter one further, are the model's choice
(log entry 1). -/
def Obligations.RandomNumberMasksTheDraw : Prop :=
  ∀ (x : Reg) (kk : Byte) (s : State),
    (∃ t, exec (.randomNumber x kk) s = .next t ∧ t.readV x = Config.freeRand s.draws &&& kk ∧
      t.draws = s.draws + 1 ∧ t.PC = s.PC + 2 ∧ Frame (· ∈ [.V x, .draws, .PC]) s t) ∧
    (∀ r : Byte, ∃ t, randomNumberWith r x kk s = .next t ∧ t.readV x = r &&& kk ∧ t.PC = s.PC + 2 ∧
      Frame (· ∈ [.V x, .draws, .PC]) s t)

/-! ## The address register and memory transfers -/

/-- R180. -/
def Obligations.SetAddressRegLoadsI : Prop :=
  ∀ (nnn : Lit12) (s : State), ∃ t, exec (.setAddressReg nnn) s = .next t ∧ t.I.toNat = nnn.toNat ∧
    t.PC = s.PC + 2 ∧ Frame (· ∈ [.I, .PC]) s t

/-- R181: the exact sum while it fits in 16 bits; past 0xFFFF an error or the wrapped sum, by `I_OVERFLOW`. The error kind
is the spec's own (D7). `VF` is not written. -/
def Obligations.AddAddressRegSumOrOverflow : Prop :=
  ∀ (x : Reg) (s : State) (sum : Nat), sum = s.I.toNat + (s.readV x).toNat →
    (sum ≤ 0xFFFF → ∃ t, exec (.addAddressReg x) s = .next t ∧ t.I.toNat = sum ∧ t.PC = s.PC + 2 ∧
      Frame (· ∈ [.I, .PC]) s t) ∧
    (0xFFFF < sum → s.params.iOverflow = .fault →
      exec (.addAddressReg x) s = .fault (.addressRegOverflow s.PC sum)) ∧
    (0xFFFF < sum → s.params.iOverflow = .wrap16 → ∃ t, exec (.addAddressReg x) s = .next t ∧
      t.I.toNat = sum % 65536 ∧ t.PC = s.PC + 2 ∧ Frame (· ∈ [.I, .PC]) s t)

/-- R182, for the machine's `FONT_BASE` and `GLYPH_STRIDE` and for any a platform may supply; that both are below 4096, so
that the sum is exact, is the model's (log entry 3). -/
def Obligations.AddressKeySpritePointsAtTheGlyph : Prop :=
  ∀ (x : Reg) (s : State),
    (∃ t, exec (.addressKeySprite x) s = .next t ∧
      t.I.toNat = Config.fontBase.toNat + Config.glyphStride.toNat * ((s.readV x).toNat % 16) ∧
      t.PC = s.PC + 2 ∧ Frame (· ∈ [.I, .PC]) s t) ∧
    (∀ base stride : BitVec 12, ∃ t, addressKeySpriteWith base stride x s = .next t ∧
      t.I.toNat = base.toNat + stride.toNat * ((s.readV x).toNat % 16) ∧
      t.PC = s.PC + 2 ∧ Frame (· ∈ [.I, .PC]) s t)

/-- R183: three decimal digits at `I`, `I + 1` and `I + 2`, where all three addresses are in memory. -/
def Obligations.StoreBCDWritesThreeDigits : Prop :=
  ∀ (x : Reg) (s : State),
    (s.I.toNat + 2 < 4096 → ∃ t, exec (.storeBCDAtAddress x) s = .next t ∧
      (t.M.get s.I.toNat).toNat = (s.readV x).toNat / 100 ∧
      (t.M.get (s.I.toNat + 1)).toNat = (s.readV x).toNat / 10 % 10 ∧
      (t.M.get (s.I.toNat + 2)).toNat = (s.readV x).toNat % 10 ∧ t.PC = s.PC + 2 ∧
      Frame (fun f => f = .PC ∨ ∃ k < 3, f = .mem (s.addrI k)) s t) ∧
    (4096 ≤ s.I.toNat + 2 →
      exec (.storeBCDAtAddress x) s = .fault (.outOfBoundsAccess s.PC (max s.I.toNat 4096)))

/-- R185, R186: `V0` to `Vx` at `I` up, where all addresses are in memory, and `I` afterwards for each value of
`LDST_I_INCREMENT`. -/
def Obligations.StoreRegistersWritesMemory : Prop :=
  ∀ (x : Reg) (s : State),
    (s.I.toNat + x.val < 4096 → ∃ t, exec (.storeRegisters x) s = .next t ∧
      (∀ k : Reg, k ≤ x → t.M.get (s.addrI k.val) = s.readV k) ∧ IncrementedI s t x ∧ t.PC = s.PC + 2 ∧
      Frame (fun f => f = .PC ∨ (f = .I ∧ s.params.ldstIncrement ≠ .none) ∨ ∃ k ≤ x.val, f = .mem (s.addrI k)) s t) ∧
    (4096 ≤ s.I.toNat + x.val →
      exec (.storeRegisters x) s = .fault (.outOfBoundsAccess s.PC (max s.I.toNat 4096)))

/-- R187, R186: `V0` to `Vx` from `I` up; the registers above `x` and all of memory keep their values. -/
def Obligations.LoadRegistersReadsMemory : Prop :=
  ∀ (x : Reg) (s : State),
    (s.I.toNat + x.val < 4096 → ∃ t, exec (.loadRegisters x) s = .next t ∧
      (∀ k : Reg, k ≤ x → t.readV k = s.M.get (s.addrI k.val)) ∧ IncrementedI s t x ∧ t.PC = s.PC + 2 ∧
      Frame (fun f => f = .PC ∨ (f = .I ∧ s.params.ldstIncrement ≠ .none) ∨ ∃ k ≤ x, f = .V k) s t) ∧
    (4096 ≤ s.I.toNat + x.val →
      exec (.loadRegisters x) s = .fault (.outOfBoundsAccess s.PC (max s.I.toNat 4096)))

/-- R185, R187: with `I` left alone, storing `V0` to `Vx` and then loading them back, whatever the registers hold in
between, gives every one of them its value at the store. -/
def Obligations.LoadAfterStoreRestoresRegisters : Prop :=
  ∀ (x k : Reg) (s t u v : State), s.params.ldstIncrement = .none → exec (.storeRegisters x) s = .next t →
    u.M = t.M → u.I = t.I → u.params = t.params → exec (.loadRegisters x) u = .next v →
    k ≤ x → v.readV k = s.readV k

/-- R53, R54, R60: a read after a write gives the value written there and every other byte as it was; an address of 4096
or more raises `OutOfBoundsAccess` for both. -/
def Obligations.ReadAfterWrite : Prop :=
  ∀ (s : State) (a b : Nat) (v : Byte),
    (a < 4096 → b < 4096 → ∃ t, memWrite s a v = .ok t ∧
      memRead t b = (if a = b then .ok v else memRead s b) ∧ Frame (· = .mem a) s t) ∧
    (4096 ≤ a → memWrite s a v = .error (.outOfBoundsAccess s.PC a) ∧
      memRead s a = .error (.outOfBoundsAccess s.PC a))

/-- The model's own: two memories in canonical form that read the same at every address are the same data
(log entry 7). -/
def Obligations.CanonicalMemoriesAreEqual : Prop :=
  ∀ m m' : Memory, m.wf → m'.wf → (∀ a < 4096, m.get a = m'.get a) → m = m'

/-! ## Display, keypad and timers -/

/-- R200: one `Clear` request, and no register effect. -/
def Obligations.ClearScreenEmitsClear : Prop :=
  ∀ s : State, ∃ t, exec .clearScreen s = .next t ∧ t.events = s.events ++ [.clear] ∧ t.PC = s.PC + 2 ∧
    Frame (· ∈ [.events, .PC]) s t

/-- R201: the request with the coordinates and the `n` bytes at `I`, and the display's answer in `VF`, whichever answer it
is; where a byte is out of memory, an error. That `n = 0` reads nothing and still asks is the spec's decision D14. That the
answer is the opaque `Config.freeCollision` applied to the draw counter, and that an execution takes the counter one
further, are the model's choice (log entries 1 and 2). -/
def Obligations.DrawSpriteAsksTheDisplay : Prop :=
  ∀ (x y : Reg) (n : Count) (s : State),
    (n.val = 0 ∨ s.I.toNat + n.val ≤ 4096 →
      (∃ t, exec (.drawSprite x y n) s = .next t ∧
        t.events = s.events ++
          [.draw (s.readV x) (s.readV y) ((List.range n.val).map fun k => s.M.get (s.addrI k))] ∧
        t.readV Reg.VF = (if Config.freeCollision s.draws then 1 else 0) ∧ t.draws = s.draws + 1 ∧
        t.PC = s.PC + 2 ∧ Frame (· ∈ [.V Reg.VF, .events, .draws, .PC]) s t) ∧
      (∀ c : Bool, ∃ t, drawSpriteWith c x y n s = .next t ∧ t.readV Reg.VF = (if c then 1 else 0))) ∧
    (n.val ≠ 0 → 4096 < s.I.toNat + n.val →
      exec (.drawSprite x y n) s = .fault (.outOfBoundsAccess s.PC (max s.I.toNat 4096)))

/-- R202, R203: the key that the low nibble of `Vx` names. -/
def Obligations.KeySkipsReadTheKeypad : Prop :=
  ∀ (x : Reg) (k : Key) (s : State), k.val = (s.readV x).toNat % 16 →
    (∃ t, exec (.keyIsPressed x) s = .next t ∧
      t.PC = (if s.key k = true then s.PC + 4 else s.PC + 2) ∧ Frame (· = .PC) s t) ∧
    (∃ t, exec (.keyIsntPressed x) s = .next t ∧
      t.PC = (if s.key k = true then s.PC + 2 else s.PC + 4) ∧ Frame (· = .PC) s t)

/-- R205: the lowest pressed key; with no key pressed nothing changes, `PC` included. That a held key is taken at once is
the spec's decision D27. -/
def Obligations.AwaitKeyPressTakesTheLowestKey : Prop :=
  ∀ (x : Reg) (s : State),
    (∀ k : Key, s.key k = true → (∀ j : Key, j < k → s.key j = false) →
      ∃ t, exec (.awaitKeyPress x) s = .next t ∧ (t.readV x).toNat = k.val ∧ t.PC = s.PC + 2 ∧
        Frame (· ∈ [.V x, .PC]) s t) ∧
    ((∀ k : Key, s.key k = false) → exec (.awaitKeyPress x) s = .next s)

/-- R204, R206, R207: a timer is read into a register or set from one. -/
def Obligations.TimerReadsAndWrites : Prop :=
  ∀ (x : Reg) (s : State),
    (∃ t, exec (.readDelayTimer x) s = .next t ∧ t.readV x = s.DT ∧ t.PC = s.PC + 2 ∧
      Frame (· ∈ [.V x, .PC]) s t) ∧
    (∃ t, exec (.setDelayTimer x) s = .next t ∧ t.DT = s.readV x ∧ t.PC = s.PC + 2 ∧ Frame (· ∈ [.DT, .PC]) s t) ∧
    (∃ t, exec (.setSoundTimer x) s = .next t ∧ t.ST = s.readV x ∧ t.PC = s.PC + 2 ∧ Frame (· ∈ [.ST, .PC]) s t)

/-- R114, R276: under `TICK_MODE = per_step` a timer set by the instruction of a step is ticked in that same step, and
ReadDelayTimer reads the value before its own step's tick. -/
def Obligations.TimerSetIsTickedInTheSameStep : Prop :=
  ∀ (x : Reg) (s : State), s.PC.toNat < 4095 → s.params.tickMode = .perStep →
    (fetchedInstr s = .setDelayTimer x →
      ∃ u, step s = .next u ∧ u.DT.toNat = (s.readV x).toNat - 1 ∧ u.ST.toNat = s.ST.toNat - 1) ∧
    (fetchedInstr s = .setSoundTimer x →
      ∃ u, step s = .next u ∧ u.ST.toNat = (s.readV x).toNat - 1 ∧ u.DT.toNat = s.DT.toNat - 1) ∧
    (fetchedInstr s = .readDelayTimer x →
      ∃ u, step s = .next u ∧ u.readV x = s.DT ∧ u.DT.toNat = s.DT.toNat - 1)

/-- W7: after `k` ticks a timer holds its value less `k`, and never less than 0. -/
def Obligations.TimerCountsDownToZero : Prop :=
  ∀ (k : Nat) (s : State),
    ((Machine.tick^[k]) s).DT.toNat = s.DT.toNat - k ∧ ((Machine.tick^[k]) s).ST.toNat = s.ST.toNat - k ∧
    Frame (· ∈ [.DT, .ST]) s ((Machine.tick^[k]) s)

/-- R205, R249, U13: with no key pressed the machine steps on at AwaitKeyPress for as long as it is stepped; only the
cycle count, the model's list of the step's requests and, under `TICK_MODE = per_step`, the timers change. The run is of
steps alone: that no host action falls between them, so that no key is pressed and under `TICK_MODE = external` no timer
ticks, is the model's choice (log entry 8). -/
def Obligations.AwaitKeyPressSpinsUntilAKey : Prop :=
  ∀ (x : Reg) (k : Nat) (s : State), s.PC.toNat < 4095 → fetchedInstr s = .awaitKeyPress x →
    (∀ j : Key, s.key j = false) →
    ∃ t, Host.Core.run core k s = .next t ∧ t.cycles = s.cycles + k ∧
      (s.params.tickMode = .perStep → t.DT.toNat = s.DT.toNat - k ∧ t.ST.toNat = s.ST.toNat - k) ∧
      (s.params.tickMode = .external → t.DT = s.DT ∧ t.ST = s.ST) ∧
      Frame (· ∈ [.DT, .ST, .cycles, .events]) s t

/-- R121: a Jump to its own address leaves everything but the timers, the cycle count and the model's list of the step's
requests as it is, step after step, in a run of steps with no host action between them (log entry 8). -/
def Obligations.SelfJumpIsAFixedPoint : Prop :=
  ∀ (k : Nat) (s : State), s.PC.toNat < 4095 → fetchedInstr s = .jump (s.PC.setWidth 12) →
    ∃ t, Host.Core.run core k s = .next t ∧ t.cycles = s.cycles + k ∧ Frame (· ∈ [.DT, .ST, .cycles, .events]) s t

/-! ## Errors -/

/-- R220, R221, R232, R231: SysCall always raises `UnsupportedInstruction` and Unknown always `InvalidOpcode`. -/
def Obligations.InvalidInstructionsAlwaysFail : Prop :=
  ∀ (nnn : Lit12) (w : Word) (s : State),
    exec (.sysCall nnn) s = .fault (.unsupportedInstruction s.PC nnn) ∧
    exec (.unknown w) s = .fault (.invalidOpcode s.PC w)

/-- R238, R239, R240: for every instruction and state, execution raises exactly the error the table names, and answers a
next state where the table names none. That no transfer raises the `AddressRegOverflow` R236 gives it is the model's
deduction (log entry 13). -/
def Obligations.ErrorsAreExactlyTheTabulatedOnes : Prop :=
  ∀ (i : Instr) (s : State),
    (tabulatedError i s = none → ∃ t, exec i s = .next t) ∧
    (∀ f, tabulatedError i s = some f → exec i s = .fault f)

/-- R230, R238: a step completes exactly where its fetch is in bounds and the table names no error for the instruction
fetched; otherwise it ends with an error that records the `PC` of the instruction, and it is never refused. -/
def Obligations.StepCompletesExactlyWhereSafe : Prop :=
  ∀ s : State, (StepSafe s → ∃ t, step s = .next t) ∧ (¬ StepSafe s → ∃ f, step s = .fault f ∧ f.pc = s.PC)

/-! ## Whole-machine rules -/

/-- R30: `I` is written only by SetAddressReg, AddAddressReg and AddressKeySprite (and by the two register transfers under
a non-default `LDST_I_INCREMENT`, R186). -/
def Obligations.OnlyAddressInstructionsWriteI : Prop :=
  ∀ (i : Instr) (s t : State), exec i s = .next t → t.I ≠ s.I →
    (∃ nnn, i = .setAddressReg nnn) ∨ (∃ x, i = .addAddressReg x) ∨ (∃ x, i = .addressKeySprite x) ∨
    (s.params.ldstIncrement ≠ .none ∧ ∃ x, i = .storeRegisters x ∨ i = .loadRegisters x)

/-- R23: `VF` is written only by the five flag-setting operations and DrawSprite, by LoadRegisters with `x = 0xF`, and by an
instruction that names it as its destination. -/
def Obligations.OnlyNamedInstructionsWriteVF : Prop :=
  ∀ (i : Instr) (s t : State), exec i s = .next t → t.readV Reg.VF ≠ s.readV Reg.VF →
    (∃ x y, i = .addReg x y ∨ i = .subReg x y ∨ i = .subRegRev x y ∨ i = .rightShiftReg x y ∨ i = .leftShiftReg x y) ∨
    (∃ x y n, i = .drawSprite x y n) ∨ i = .loadRegisters Reg.VF ∨
    (∃ kk, i = .setReg Reg.VF kk ∨ i = .addConst Reg.VF kk ∨ i = .randomNumber Reg.VF kk) ∨
    (∃ y, i = .copyReg Reg.VF y ∨ i = .orReg Reg.VF y ∨ i = .andReg Reg.VF y ∨ i = .xorReg Reg.VF y) ∨
    i = .readDelayTimer Reg.VF ∨ i = .awaitKeyPress Reg.VF

/-- R51: a byte of memory is written only by StoreBCDAtAddress at `I` to `I + 2` and StoreRegisters at `I` to `I + x`. -/
def Obligations.OnlyStoresWriteMemory : Prop :=
  ∀ (i : Instr) (s t : State) (a : Nat), exec i s = .next t → t.M.get a ≠ s.M.get a →
    (∃ x, i = .storeBCDAtAddress x ∧ s.I.toNat ≤ a ∧ a ≤ s.I.toNat + 2) ∨
    (∃ x : Reg, i = .storeRegisters x ∧ s.I.toNat ≤ a ∧ a ≤ s.I.toNat + x.val)

/-- R138, R31, R32, R36, R37: the stack changes only by Call and ReturnFromSub, `DT` only by SetDelayTimer, `ST` only by
SetSoundTimer; no instruction writes the keypad or the cycle count. That a return changes the depth alone and leaves the
entries (R34, R35), the popped one with them, is the model's choice (log entry 10), and so is the field of the parameters,
which no instruction writes (log entry 5). -/
def Obligations.WhoWritesStackTimersAndKeypad : Prop :=
  ∀ (i : Instr) (s t : State), exec i s = .next t →
    (t.stack ≠ s.stack → ∃ nnn, i = .call nnn) ∧
    (t.depth ≠ s.depth → (∃ nnn, i = .call nnn) ∨ i = .returnFromSub) ∧
    (t.DT ≠ s.DT → ∃ x, i = .setDelayTimer x) ∧ (t.ST ≠ s.ST → ∃ x, i = .setSoundTimer x) ∧
    t.KEY = s.KEY ∧ t.cycles = s.cycles ∧ t.params = s.params

/-- R251: a step emits at most one request, `Clear` from ClearScreen or `Draw` from DrawSprite; that a
step's requests stand in `events` is the model's choice (log entry 4). -/
def Obligations.StepEmitsAtMostOneRequest : Prop :=
  ∀ s t : State, step s = .next t →
    (t.events = [] ∨ (t.events = [.clear] ∧ fetchedInstr s = .clearScreen) ∨
      ∃ x y n bytes, t.events = [.draw (s.readV x) (s.readV y) bytes] ∧ bytes.length = n.val ∧
        fetchedInstr s = .drawSprite x y n)

/-- R37: no instruction reads or writes the cycle count, so no program can observe it. The two executions compared start
from the same draw counter and so have the same random byte and collision answer (log entries 1 and 2). -/
def Obligations.CycleCountIsUnobservable : Prop :=
  ∀ (i : Instr) (s : State) (c : Nat),
    exec i { s with cycles := c } = mapNext (fun t => { t with cycles := c }) (exec i s)

/-- R243, R36: a key press is seen only by the three instructions that read the keypad. The two executions compared start
from the same draw counter and so have the same random byte and collision answer (log entries 1 and 2). -/
def Obligations.KeypadIsSeenOnlyByKeyInstructions : Prop :=
  ∀ (i : Instr) (s : State) (keys : Vector Bool 16),
    (∀ x, i ≠ .keyIsPressed x ∧ i ≠ .keyIsntPressed x ∧ i ≠ .awaitKeyPress x) →
    exec i { s with KEY := keys } = mapNext (fun t => { t with KEY := keys }) (exec i s)

/-- R26 (its ranges: log entry 16), and the model's canonical form of memory (log entry 7): every step from a state that
meets the invariant gives one that does. -/
def Obligations.StepKeepsInvariant : Prop :=
  ∀ s t : State, Inv s → step s = .next t → Inv t

/-- The same for whole runs with host actions between the steps (R120, R255; log entries 7, 8 and 16). -/
def Obligations.RunsKeepInvariant : Prop :=
  ∀ (as : List Action) (s t : State), Inv s → runActions as s = .next t → Inv t

/-! ## Reset and the host -/

/-- R271 and the invariant at reset. `I = 0` and `cycles = 0` are the spec's decisions D18 and D17; no draw, no request and
the spec's parameters are the model's own (log entries 1, 4 and 5), as are the invariant's canonical form of memory and its
ranges (log entries 7 and 16). -/
def Obligations.ResetState : Prop :=
  (∀ x : Reg, State.reset.readV x = 0) ∧ State.reset.I = 0 ∧ State.reset.PC = 0x200 ∧ State.reset.depth = 0 ∧
  State.reset.DT = 0 ∧ State.reset.ST = 0 ∧ (∀ k : Key, State.reset.key k = false) ∧ State.reset.cycles = 0 ∧
  (∀ a, State.reset.M.get a = 0) ∧ State.reset.draws = 0 ∧ State.reset.events = [] ∧
  State.reset.params = paramsOfSpec ∧ Inv State.reset

/-- R272: memory after construction from any ROM and font image: the font image below 0x200, the ROM from 0x200, cut to
the 3584 bytes that fit, zeros after it. That a font image of another length than 512 bytes is filled with zeros or cut is
the model's choice (log entry 17); that the machine meets the invariant is the model's (log entries 7 and 16). -/
def Obligations.ConstructedMemoryHoldsTheROM : Prop :=
  ∀ (p : Params) (font rom : List Byte),
    (∀ a < 0x200, (construct p font rom).M.get a = font.getD a 0) ∧
    (∀ a, 0x200 ≤ a → a < 4096 → (construct p font rom).M.get a = rom.getD (a - 0x200) 0) ∧
    Inv (construct p font rom)

/-- R270, R271, R273: the machine constructed from any ROM and font image has every register, the depth, the timers, the
keypad and the cycle count as at reset, and its first step fetches the word at 0x200, the ROM's first two bytes. `I = 0`
and `cycles = 0` are the spec's decisions D18 and D17; no draw, no request, the field of the parameters and the dead stack
entries, which are zero, are the model's own (log entries 1, 4, 5 and 10). -/
def Obligations.ConstructedMachineStartsAtTheROM : Prop :=
  ∀ (p : Params) (font rom : List Byte) (s : State), s = construct p font rom →
    (∀ x : Reg, s.readV x = 0) ∧ s.I = 0 ∧ s.PC = 0x200 ∧ s.depth = 0 ∧ s.DT = 0 ∧ s.ST = 0 ∧
    (∀ k : Key, s.key k = false) ∧ s.cycles = 0 ∧ s.draws = 0 ∧ s.events = [] ∧ s.params = p ∧
    Frame (fun f => f = .params ∨ ∃ a, f = .mem a) State.reset s ∧
    ∃ w, fetchWord s = .ok w ∧ w.toNat = (rom.getD 0 0).toNat * 256 + (rom.getD 1 0).toNat

/-- R252, R255, R118: the host may set the keypad in any way and, only under `TICK_MODE = external`, tick the timers; it
changes nothing else. -/
def Obligations.HostActionsChangeOnlyKeysAndTimers : Prop :=
  ∀ (keys : Vector Bool 16) (s : State),
    (∃ t, hostAct (.setKeys keys) s = some t ∧ t.KEY = keys ∧ Frame (fun f => ∃ k, f = .key k) s t) ∧
    (s.params.tickMode = .external → ∃ t, hostAct .tick s = some t ∧ t.DT.toNat = s.DT.toNat - 1 ∧
      t.ST.toNat = s.ST.toNat - 1 ∧ Frame (· ∈ [.DT, .ST]) s t) ∧
    (s.params.tickMode = .perStep → hostAct .tick s = none)
end

