-- ==== Sys2Proof/Laws/Encoding.lean ====
section
/-! SUPPORT. The fields of an encoded word, the word of its fields, and the two bytes of a word. -/

namespace Sys2Proof

/-! ### A slice of a concatenation -/

theorem slice_above {m n : Nat} (a : BitVec m) (b : BitVec n) (k len : Nat) :
    (a ++ b).extractLsb' (n + k) len = a.extractLsb' k len := by
  ext i hi
  simp only [BitVec.getElem_extractLsb', BitVec.getLsbD_append]
  rw [if_neg (by omega)]
  congr 1
  omega

theorem slice_below {m n : Nat} (a : BitVec m) (b : BitVec n) (k len : Nat) (h : k + len ≤ n) :
    (a ++ b).extractLsb' k len = b.extractLsb' k len := by
  ext i hi
  simp only [BitVec.getElem_extractLsb', BitVec.getLsbD_append]
  rw [if_pos (by omega)]

theorem slice_whole {n : Nat} (a : BitVec n) : a.extractLsb' 0 n = a := by
  ext i hi
  simp

/-! ### The fields of an encoded word (R76) -/

@[simp] theorem fieldFamily_encNNN (f : BitVec 4) (nnn : Lit12) : fieldFamily (encNNN f nnn) = f :=
  (slice_above f nnn 0 4).trans (slice_whole f)

@[simp] theorem fieldNNN_encNNN (f : BitVec 4) (nnn : Lit12) : fieldNNN (encNNN f nnn) = nnn :=
  (slice_below f nnn 0 12 (by omega)).trans (slice_whole nnn)

@[simp] theorem fieldFamily_encXKK (f : BitVec 4) (x : Reg) (kk : Byte) : fieldFamily (encXKK f x kk) = f :=
  (slice_above (n := 12) f _ 0 4).trans (slice_whole f)

@[simp] theorem regX_encXKK (f : BitVec 4) (x : Reg) (kk : Byte) : regX (encXKK f x kk) = x := by
  have h : fieldX (encXKK f x kk) = BitVec.ofFin (w := 4) x :=
    (slice_below (n := 12) f _ 8 4 (by omega)).trans ((slice_above (BitVec.ofFin (w := 4) x) kk 0 4).trans (slice_whole _))
  simp only [regX, h]

@[simp] theorem fieldKK_encXKK (f : BitVec 4) (x : Reg) (kk : Byte) : fieldKK (encXKK f x kk) = kk :=
  (slice_below (n := 12) f _ 0 8 (by omega)).trans ((slice_below (BitVec.ofFin (w := 4) x) kk 0 8 (by omega)).trans (slice_whole _))

@[simp] theorem fieldFamily_encXYN (f : BitVec 4) (x y : Reg) (s : BitVec 4) : fieldFamily (encXYN f x y s) = f :=
  (slice_above (n := 12) f _ 0 4).trans (slice_whole f)

@[simp] theorem regX_encXYN (f : BitVec 4) (x y : Reg) (s : BitVec 4) : regX (encXYN f x y s) = x := by
  have h : fieldX (encXYN f x y s) = BitVec.ofFin (w := 4) x :=
    (slice_below (n := 12) f _ 8 4 (by omega)).trans
      ((slice_above (n := 8) (BitVec.ofFin (w := 4) x) _ 0 4).trans (slice_whole _))
  simp only [regX, h]

@[simp] theorem regY_encXYN (f : BitVec 4) (x y : Reg) (s : BitVec 4) : regY (encXYN f x y s) = y := by
  have h : fieldY (encXYN f x y s) = BitVec.ofFin (w := 4) y :=
    (slice_below (n := 12) f _ 4 4 (by omega)).trans
      ((slice_below (n := 8) (BitVec.ofFin (w := 4) x) _ 4 4 (by omega)).trans
        ((slice_above (BitVec.ofFin (w := 4) y) s 0 4).trans (slice_whole _)))
  simp only [regY, h]

@[simp] theorem fieldN_encXYN (f : BitVec 4) (x y : Reg) (s : BitVec 4) : fieldN (encXYN f x y s) = s :=
  (slice_below (n := 12) f _ 0 4 (by omega)).trans
    ((slice_below (n := 8) (BitVec.ofFin (w := 4) x) _ 0 4 (by omega)).trans
      ((slice_below (BitVec.ofFin (w := 4) y) s 0 4 (by omega)).trans (slice_whole _)))

/-! ### The word of its fields -/

theorem join_slices {n : Nat} (w : BitVec n) (k a b : Nat) :
    w.extractLsb' (k + b) a ++ w.extractLsb' k b = w.extractLsb' k (a + b) := by
  ext i hi
  simp only [BitVec.getElem_append, BitVec.getElem_extractLsb']
  split_ifs with h
  · rfl
  · congr 1; omega

theorem encNNN_fields (w : Word) : encNNN (fieldFamily w) (fieldNNN w) = w :=
  (join_slices w 0 4 12).trans (slice_whole w)

theorem encXKK_fields (w : Word) : encXKK (fieldFamily w) (regX w) (fieldKK w) = w := by
  have h : BitVec.ofFin (w := 4) (regX w) ++ fieldKK w = fieldNNN w := join_slices w 0 4 8
  exact (congrArg (fun v : BitVec 12 => fieldFamily w ++ v) h).trans (encNNN_fields w)

theorem encXYN_fields (w : Word) : encXYN (fieldFamily w) (regX w) (regY w) (fieldN w) = w := by
  have h : BitVec.ofFin (w := 4) (regY w) ++ fieldN w = fieldKK w := join_slices w 0 4 4
  exact (congrArg (fun v : BitVec 8 => fieldFamily w ++ (BitVec.ofFin (w := 4) (regX w) ++ v)) h).trans (encXKK_fields w)

/-! ### The bytes of a word (R55) -/

@[simp] theorem wordOfBytes_hi_lo (w : Word) : wordOfBytes (hiByte w) (loByte w) = w :=
  (join_slices w 0 8 8).trans (slice_whole w)

@[simp] theorem hiByte_wordOfBytes (hi lo : Byte) : hiByte (wordOfBytes hi lo) = hi :=
  (slice_above hi lo 0 8).trans (slice_whole hi)

@[simp] theorem loByte_wordOfBytes (hi lo : Byte) : loByte (wordOfBytes hi lo) = lo :=
  (slice_below hi lo 0 8 (by omega)).trans (slice_whole lo)

/-! ### Masking an encoded word (R88) -/

theorem and_zero_lit {n : Nat} (v : BitVec n) : v &&& 0 = 0 := BitVec.and_zero

theorem encNNN_mask (f : BitVec 4) (nnn : Lit12) : encNNN f nnn &&& 0xF000 = encNNN f 0 := by
  have h : (0xF000 : Word) = (0xF : BitVec 4) ++ (0 : BitVec 12) := by decide
  have e : (f ++ nnn) &&& ((0xF : BitVec 4) ++ (0 : BitVec 12)) = (f &&& 0xF) ++ (nnn &&& 0) := BitVec.and_append
  have hf : f &&& 0xF = f := BitVec.and_allOnes
  unfold encNNN
  rw [h, e, hf, and_zero_lit]

theorem encXKK_mask (f : BitVec 4) (x : Reg) (kk : Byte) : encXKK f x kk &&& 0xF000 = encNNN f 0 :=
  encNNN_mask f _

theorem encXYN_mask (f : BitVec 4) (x y : Reg) (s : BitVec 4) : encXYN f x y s &&& 0xF000 = encNNN f 0 :=
  encNNN_mask f _

theorem encXKK_mask_low (f : BitVec 4) (x : Reg) (kk : Byte) : encXKK f x kk &&& 0xF0FF = encXKK f 0 kk := by
  have h : (0xF0FF : Word) = (0xF : BitVec 4) ++ ((0 : BitVec 4) ++ (0xFF : BitVec 8)) := by decide
  have e : (f ++ (BitVec.ofFin (w := 4) x ++ kk)) &&& ((0xF : BitVec 4) ++ ((0 : BitVec 4) ++ (0xFF : BitVec 8))) =
      (f &&& 0xF) ++ ((BitVec.ofFin (w := 4) x &&& 0) ++ (kk &&& 0xFF)) := by
    rw [BitVec.and_append, BitVec.and_append]
  have hf : f &&& 0xF = f := BitVec.and_allOnes
  have hk : kk &&& 0xFF = kk := BitVec.and_allOnes
  unfold encXKK
  rw [h, e, hf, hk, and_zero_lit]
  rfl

theorem encXYN_mask_low (f : BitVec 4) (x y : Reg) (s : BitVec 4) : encXYN f x y s &&& 0xF00F = encXYN f 0 0 s := by
  have h : (0xF00F : Word) = (0xF : BitVec 4) ++ ((0 : BitVec 4) ++ ((0 : BitVec 4) ++ (0xF : BitVec 4))) := by decide
  have e : (f ++ (BitVec.ofFin (w := 4) x ++ (BitVec.ofFin (w := 4) y ++ s))) &&&
        ((0xF : BitVec 4) ++ ((0 : BitVec 4) ++ ((0 : BitVec 4) ++ (0xF : BitVec 4)))) =
      (f &&& 0xF) ++ ((BitVec.ofFin (w := 4) x &&& 0) ++ ((BitVec.ofFin (w := 4) y &&& 0) ++ (s &&& 0xF))) := by
    rw [BitVec.and_append, BitVec.and_append, BitVec.and_append]
  have hf : f &&& 0xF = f := BitVec.and_allOnes
  have hs : s &&& 0xF = s := BitVec.and_allOnes
  unfold encXYN
  rw [h, e, hf, hs, and_zero_lit, and_zero_lit]
  rfl

/-- A masked word by its fields. -/
theorem mask_family (w : Word) : w &&& 0xF000 = encNNN (fieldFamily w) 0 :=
  (congrArg (· &&& 0xF000) (encNNN_fields w)).symm.trans (encNNN_mask _ _)

theorem mask_family_kk (w : Word) : w &&& 0xF0FF = encXKK (fieldFamily w) 0 (fieldKK w) :=
  (congrArg (· &&& 0xF0FF) (encXKK_fields w)).symm.trans (encXKK_mask_low _ _ _)

theorem mask_family_n (w : Word) : w &&& 0xF00F = encXYN (fieldFamily w) 0 0 (fieldN w) :=
  (congrArg (· &&& 0xF00F) (encXYN_fields w)).symm.trans (encXYN_mask_low _ _ _ _)

/-! ### The fields as numbers (R9, R73) -/

theorem fieldFamily_toNat (w : Word) : (fieldFamily w).toNat = w.toNat / 4096 := by
  have := w.isLt
  simp only [fieldFamily, BitVec.extractLsb'_toNat, Nat.shiftRight_eq_div_pow]
  omega

theorem fieldX_toNat (w : Word) : (fieldX w).toNat = w.toNat / 256 % 16 := by
  simp [fieldX, Nat.shiftRight_eq_div_pow]

theorem fieldY_toNat (w : Word) : (fieldY w).toNat = w.toNat / 16 % 16 := by
  simp [fieldY, Nat.shiftRight_eq_div_pow]

theorem fieldN_toNat (w : Word) : (fieldN w).toNat = w.toNat % 16 := by
  simp [fieldN]

theorem fieldKK_toNat (w : Word) : (fieldKK w).toNat = w.toNat % 256 := by
  simp [fieldKK]

theorem fieldNNN_toNat (w : Word) : (fieldNNN w).toNat = w.toNat % 4096 := by
  simp [fieldNNN]

end Sys2Proof
end

