-- ==== Sys2Proof/Laws/State.lean ====
section
/-! SUPPORT. One lemma per field per update of the state, true by unfolding the update. -/

namespace Sys2Proof.Machine

/-! ### writeV -/

@[simp] theorem State.writeV_V (s : State) (i : Reg) (v : Byte) : (s.writeV i v).V = s.V.set i.val v := rfl
@[simp] theorem State.writeV_I (s : State) (i : Reg) (v : Byte) : (s.writeV i v).I = s.I := rfl
@[simp] theorem State.writeV_PC (s : State) (i : Reg) (v : Byte) : (s.writeV i v).PC = s.PC := rfl
@[simp] theorem State.writeV_stack (s : State) (i : Reg) (v : Byte) : (s.writeV i v).stack = s.stack := rfl
@[simp] theorem State.writeV_depth (s : State) (i : Reg) (v : Byte) : (s.writeV i v).depth = s.depth := rfl
@[simp] theorem State.writeV_DT (s : State) (i : Reg) (v : Byte) : (s.writeV i v).DT = s.DT := rfl
@[simp] theorem State.writeV_ST (s : State) (i : Reg) (v : Byte) : (s.writeV i v).ST = s.ST := rfl
@[simp] theorem State.writeV_KEY (s : State) (i : Reg) (v : Byte) : (s.writeV i v).KEY = s.KEY := rfl
@[simp] theorem State.writeV_cycles (s : State) (i : Reg) (v : Byte) : (s.writeV i v).cycles = s.cycles := rfl
@[simp] theorem State.writeV_M (s : State) (i : Reg) (v : Byte) : (s.writeV i v).M = s.M := rfl
@[simp] theorem State.writeV_events (s : State) (i : Reg) (v : Byte) : (s.writeV i v).events = s.events := rfl
@[simp] theorem State.writeV_draws (s : State) (i : Reg) (v : Byte) : (s.writeV i v).draws = s.draws := rfl
@[simp] theorem State.writeV_params (s : State) (i : Reg) (v : Byte) : (s.writeV i v).params = s.params := rfl
@[simp] theorem State.key_writeV (s : State) (i : Reg) (v : Byte) (k : Key) : (s.writeV i v).key k = s.key k := rfl

/-! ### loadV -/

@[simp] theorem State.loadV_V (s : State) (bs : List Byte) : (s.loadV bs).V = Vector.ofFn fun k : Reg => bs.getD k.val (s.readV k) := rfl
@[simp] theorem State.loadV_I (s : State) (bs : List Byte) : (s.loadV bs).I = s.I := rfl
@[simp] theorem State.loadV_PC (s : State) (bs : List Byte) : (s.loadV bs).PC = s.PC := rfl
@[simp] theorem State.loadV_stack (s : State) (bs : List Byte) : (s.loadV bs).stack = s.stack := rfl
@[simp] theorem State.loadV_depth (s : State) (bs : List Byte) : (s.loadV bs).depth = s.depth := rfl
@[simp] theorem State.loadV_DT (s : State) (bs : List Byte) : (s.loadV bs).DT = s.DT := rfl
@[simp] theorem State.loadV_ST (s : State) (bs : List Byte) : (s.loadV bs).ST = s.ST := rfl
@[simp] theorem State.loadV_KEY (s : State) (bs : List Byte) : (s.loadV bs).KEY = s.KEY := rfl
@[simp] theorem State.loadV_cycles (s : State) (bs : List Byte) : (s.loadV bs).cycles = s.cycles := rfl
@[simp] theorem State.loadV_M (s : State) (bs : List Byte) : (s.loadV bs).M = s.M := rfl
@[simp] theorem State.loadV_events (s : State) (bs : List Byte) : (s.loadV bs).events = s.events := rfl
@[simp] theorem State.loadV_draws (s : State) (bs : List Byte) : (s.loadV bs).draws = s.draws := rfl
@[simp] theorem State.loadV_params (s : State) (bs : List Byte) : (s.loadV bs).params = s.params := rfl
@[simp] theorem State.key_loadV (s : State) (bs : List Byte) (k : Key) : (s.loadV bs).key k = s.key k := rfl

/-! ### writeI -/

@[simp] theorem State.writeI_V (s : State) (v : Word) : (s.writeI v).V = s.V := rfl
@[simp] theorem State.writeI_I (s : State) (v : Word) : (s.writeI v).I = v := rfl
@[simp] theorem State.writeI_PC (s : State) (v : Word) : (s.writeI v).PC = s.PC := rfl
@[simp] theorem State.writeI_stack (s : State) (v : Word) : (s.writeI v).stack = s.stack := rfl
@[simp] theorem State.writeI_depth (s : State) (v : Word) : (s.writeI v).depth = s.depth := rfl
@[simp] theorem State.writeI_DT (s : State) (v : Word) : (s.writeI v).DT = s.DT := rfl
@[simp] theorem State.writeI_ST (s : State) (v : Word) : (s.writeI v).ST = s.ST := rfl
@[simp] theorem State.writeI_KEY (s : State) (v : Word) : (s.writeI v).KEY = s.KEY := rfl
@[simp] theorem State.writeI_cycles (s : State) (v : Word) : (s.writeI v).cycles = s.cycles := rfl
@[simp] theorem State.writeI_M (s : State) (v : Word) : (s.writeI v).M = s.M := rfl
@[simp] theorem State.writeI_events (s : State) (v : Word) : (s.writeI v).events = s.events := rfl
@[simp] theorem State.writeI_draws (s : State) (v : Word) : (s.writeI v).draws = s.draws := rfl
@[simp] theorem State.writeI_params (s : State) (v : Word) : (s.writeI v).params = s.params := rfl
@[simp] theorem State.readV_writeI (s : State) (v : Word) (j : Reg) : (s.writeI v).readV j = s.readV j := rfl
@[simp] theorem State.key_writeI (s : State) (v : Word) (k : Key) : (s.writeI v).key k = s.key k := rfl

/-! ### setPC -/

@[simp] theorem State.setPC_V (s : State) (a : Word) : (s.setPC a).V = s.V := rfl
@[simp] theorem State.setPC_I (s : State) (a : Word) : (s.setPC a).I = s.I := rfl
@[simp] theorem State.setPC_PC (s : State) (a : Word) : (s.setPC a).PC = a := rfl
@[simp] theorem State.setPC_stack (s : State) (a : Word) : (s.setPC a).stack = s.stack := rfl
@[simp] theorem State.setPC_depth (s : State) (a : Word) : (s.setPC a).depth = s.depth := rfl
@[simp] theorem State.setPC_DT (s : State) (a : Word) : (s.setPC a).DT = s.DT := rfl
@[simp] theorem State.setPC_ST (s : State) (a : Word) : (s.setPC a).ST = s.ST := rfl
@[simp] theorem State.setPC_KEY (s : State) (a : Word) : (s.setPC a).KEY = s.KEY := rfl
@[simp] theorem State.setPC_cycles (s : State) (a : Word) : (s.setPC a).cycles = s.cycles := rfl
@[simp] theorem State.setPC_M (s : State) (a : Word) : (s.setPC a).M = s.M := rfl
@[simp] theorem State.setPC_events (s : State) (a : Word) : (s.setPC a).events = s.events := rfl
@[simp] theorem State.setPC_draws (s : State) (a : Word) : (s.setPC a).draws = s.draws := rfl
@[simp] theorem State.setPC_params (s : State) (a : Word) : (s.setPC a).params = s.params := rfl
@[simp] theorem State.readV_setPC (s : State) (a : Word) (j : Reg) : (s.setPC a).readV j = s.readV j := rfl
@[simp] theorem State.key_setPC (s : State) (a : Word) (k : Key) : (s.setPC a).key k = s.key k := rfl

/-! ### advance -/

@[simp] theorem State.advance_V (s : State) : (s.advance).V = s.V := rfl
@[simp] theorem State.advance_I (s : State) : (s.advance).I = s.I := rfl
@[simp] theorem State.advance_PC (s : State) : (s.advance).PC = s.PC + 2 := rfl
@[simp] theorem State.advance_stack (s : State) : (s.advance).stack = s.stack := rfl
@[simp] theorem State.advance_depth (s : State) : (s.advance).depth = s.depth := rfl
@[simp] theorem State.advance_DT (s : State) : (s.advance).DT = s.DT := rfl
@[simp] theorem State.advance_ST (s : State) : (s.advance).ST = s.ST := rfl
@[simp] theorem State.advance_KEY (s : State) : (s.advance).KEY = s.KEY := rfl
@[simp] theorem State.advance_cycles (s : State) : (s.advance).cycles = s.cycles := rfl
@[simp] theorem State.advance_M (s : State) : (s.advance).M = s.M := rfl
@[simp] theorem State.advance_events (s : State) : (s.advance).events = s.events := rfl
@[simp] theorem State.advance_draws (s : State) : (s.advance).draws = s.draws := rfl
@[simp] theorem State.advance_params (s : State) : (s.advance).params = s.params := rfl
@[simp] theorem State.readV_advance (s : State) (j : Reg) : (s.advance).readV j = s.readV j := rfl
@[simp] theorem State.key_advance (s : State) (k : Key) : (s.advance).key k = s.key k := rfl

/-! ### skipIf -/

@[simp] theorem State.skipIf_V (s : State) (c : Bool) : (s.skipIf c).V = s.V := rfl
@[simp] theorem State.skipIf_I (s : State) (c : Bool) : (s.skipIf c).I = s.I := rfl
@[simp] theorem State.skipIf_PC (s : State) (c : Bool) : (s.skipIf c).PC = if c then s.PC + 4 else s.PC + 2 := rfl
@[simp] theorem State.skipIf_stack (s : State) (c : Bool) : (s.skipIf c).stack = s.stack := rfl
@[simp] theorem State.skipIf_depth (s : State) (c : Bool) : (s.skipIf c).depth = s.depth := rfl
@[simp] theorem State.skipIf_DT (s : State) (c : Bool) : (s.skipIf c).DT = s.DT := rfl
@[simp] theorem State.skipIf_ST (s : State) (c : Bool) : (s.skipIf c).ST = s.ST := rfl
@[simp] theorem State.skipIf_KEY (s : State) (c : Bool) : (s.skipIf c).KEY = s.KEY := rfl
@[simp] theorem State.skipIf_cycles (s : State) (c : Bool) : (s.skipIf c).cycles = s.cycles := rfl
@[simp] theorem State.skipIf_M (s : State) (c : Bool) : (s.skipIf c).M = s.M := rfl
@[simp] theorem State.skipIf_events (s : State) (c : Bool) : (s.skipIf c).events = s.events := rfl
@[simp] theorem State.skipIf_draws (s : State) (c : Bool) : (s.skipIf c).draws = s.draws := rfl
@[simp] theorem State.skipIf_params (s : State) (c : Bool) : (s.skipIf c).params = s.params := rfl
@[simp] theorem State.readV_skipIf (s : State) (c : Bool) (j : Reg) : (s.skipIf c).readV j = s.readV j := rfl
@[simp] theorem State.key_skipIf (s : State) (c : Bool) (k : Key) : (s.skipIf c).key k = s.key k := rfl

/-! ### writeDT -/

@[simp] theorem State.writeDT_V (s : State) (v : Byte) : (s.writeDT v).V = s.V := rfl
@[simp] theorem State.writeDT_I (s : State) (v : Byte) : (s.writeDT v).I = s.I := rfl
@[simp] theorem State.writeDT_PC (s : State) (v : Byte) : (s.writeDT v).PC = s.PC := rfl
@[simp] theorem State.writeDT_stack (s : State) (v : Byte) : (s.writeDT v).stack = s.stack := rfl
@[simp] theorem State.writeDT_depth (s : State) (v : Byte) : (s.writeDT v).depth = s.depth := rfl
@[simp] theorem State.writeDT_DT (s : State) (v : Byte) : (s.writeDT v).DT = v := rfl
@[simp] theorem State.writeDT_ST (s : State) (v : Byte) : (s.writeDT v).ST = s.ST := rfl
@[simp] theorem State.writeDT_KEY (s : State) (v : Byte) : (s.writeDT v).KEY = s.KEY := rfl
@[simp] theorem State.writeDT_cycles (s : State) (v : Byte) : (s.writeDT v).cycles = s.cycles := rfl
@[simp] theorem State.writeDT_M (s : State) (v : Byte) : (s.writeDT v).M = s.M := rfl
@[simp] theorem State.writeDT_events (s : State) (v : Byte) : (s.writeDT v).events = s.events := rfl
@[simp] theorem State.writeDT_draws (s : State) (v : Byte) : (s.writeDT v).draws = s.draws := rfl
@[simp] theorem State.writeDT_params (s : State) (v : Byte) : (s.writeDT v).params = s.params := rfl
@[simp] theorem State.readV_writeDT (s : State) (v : Byte) (j : Reg) : (s.writeDT v).readV j = s.readV j := rfl
@[simp] theorem State.key_writeDT (s : State) (v : Byte) (k : Key) : (s.writeDT v).key k = s.key k := rfl

/-! ### writeST -/

@[simp] theorem State.writeST_V (s : State) (v : Byte) : (s.writeST v).V = s.V := rfl
@[simp] theorem State.writeST_I (s : State) (v : Byte) : (s.writeST v).I = s.I := rfl
@[simp] theorem State.writeST_PC (s : State) (v : Byte) : (s.writeST v).PC = s.PC := rfl
@[simp] theorem State.writeST_stack (s : State) (v : Byte) : (s.writeST v).stack = s.stack := rfl
@[simp] theorem State.writeST_depth (s : State) (v : Byte) : (s.writeST v).depth = s.depth := rfl
@[simp] theorem State.writeST_DT (s : State) (v : Byte) : (s.writeST v).DT = s.DT := rfl
@[simp] theorem State.writeST_ST (s : State) (v : Byte) : (s.writeST v).ST = v := rfl
@[simp] theorem State.writeST_KEY (s : State) (v : Byte) : (s.writeST v).KEY = s.KEY := rfl
@[simp] theorem State.writeST_cycles (s : State) (v : Byte) : (s.writeST v).cycles = s.cycles := rfl
@[simp] theorem State.writeST_M (s : State) (v : Byte) : (s.writeST v).M = s.M := rfl
@[simp] theorem State.writeST_events (s : State) (v : Byte) : (s.writeST v).events = s.events := rfl
@[simp] theorem State.writeST_draws (s : State) (v : Byte) : (s.writeST v).draws = s.draws := rfl
@[simp] theorem State.writeST_params (s : State) (v : Byte) : (s.writeST v).params = s.params := rfl
@[simp] theorem State.readV_writeST (s : State) (v : Byte) (j : Reg) : (s.writeST v).readV j = s.readV j := rfl
@[simp] theorem State.key_writeST (s : State) (v : Byte) (k : Key) : (s.writeST v).key k = s.key k := rfl

/-! ### emit -/

@[simp] theorem State.emit_V (s : State) (e : DisplayRequest) : (s.emit e).V = s.V := rfl
@[simp] theorem State.emit_I (s : State) (e : DisplayRequest) : (s.emit e).I = s.I := rfl
@[simp] theorem State.emit_PC (s : State) (e : DisplayRequest) : (s.emit e).PC = s.PC := rfl
@[simp] theorem State.emit_stack (s : State) (e : DisplayRequest) : (s.emit e).stack = s.stack := rfl
@[simp] theorem State.emit_depth (s : State) (e : DisplayRequest) : (s.emit e).depth = s.depth := rfl
@[simp] theorem State.emit_DT (s : State) (e : DisplayRequest) : (s.emit e).DT = s.DT := rfl
@[simp] theorem State.emit_ST (s : State) (e : DisplayRequest) : (s.emit e).ST = s.ST := rfl
@[simp] theorem State.emit_KEY (s : State) (e : DisplayRequest) : (s.emit e).KEY = s.KEY := rfl
@[simp] theorem State.emit_cycles (s : State) (e : DisplayRequest) : (s.emit e).cycles = s.cycles := rfl
@[simp] theorem State.emit_M (s : State) (e : DisplayRequest) : (s.emit e).M = s.M := rfl
@[simp] theorem State.emit_events (s : State) (e : DisplayRequest) : (s.emit e).events = s.events ++ [e] := rfl
@[simp] theorem State.emit_draws (s : State) (e : DisplayRequest) : (s.emit e).draws = s.draws := rfl
@[simp] theorem State.emit_params (s : State) (e : DisplayRequest) : (s.emit e).params = s.params := rfl
@[simp] theorem State.readV_emit (s : State) (e : DisplayRequest) (j : Reg) : (s.emit e).readV j = s.readV j := rfl
@[simp] theorem State.key_emit (s : State) (e : DisplayRequest) (k : Key) : (s.emit e).key k = s.key k := rfl

/-! ### countDraw -/

@[simp] theorem State.countDraw_V (s : State) : (s.countDraw).V = s.V := rfl
@[simp] theorem State.countDraw_I (s : State) : (s.countDraw).I = s.I := rfl
@[simp] theorem State.countDraw_PC (s : State) : (s.countDraw).PC = s.PC := rfl
@[simp] theorem State.countDraw_stack (s : State) : (s.countDraw).stack = s.stack := rfl
@[simp] theorem State.countDraw_depth (s : State) : (s.countDraw).depth = s.depth := rfl
@[simp] theorem State.countDraw_DT (s : State) : (s.countDraw).DT = s.DT := rfl
@[simp] theorem State.countDraw_ST (s : State) : (s.countDraw).ST = s.ST := rfl
@[simp] theorem State.countDraw_KEY (s : State) : (s.countDraw).KEY = s.KEY := rfl
@[simp] theorem State.countDraw_cycles (s : State) : (s.countDraw).cycles = s.cycles := rfl
@[simp] theorem State.countDraw_M (s : State) : (s.countDraw).M = s.M := rfl
@[simp] theorem State.countDraw_events (s : State) : (s.countDraw).events = s.events := rfl
@[simp] theorem State.countDraw_draws (s : State) : (s.countDraw).draws = s.draws + 1 := rfl
@[simp] theorem State.countDraw_params (s : State) : (s.countDraw).params = s.params := rfl
@[simp] theorem State.readV_countDraw (s : State) (j : Reg) : (s.countDraw).readV j = s.readV j := rfl
@[simp] theorem State.key_countDraw (s : State) (k : Key) : (s.countDraw).key k = s.key k := rfl

/-! ### beginStep -/

@[simp] theorem State.beginStep_V (s : State) : (s.beginStep).V = s.V := rfl
@[simp] theorem State.beginStep_I (s : State) : (s.beginStep).I = s.I := rfl
@[simp] theorem State.beginStep_PC (s : State) : (s.beginStep).PC = s.PC := rfl
@[simp] theorem State.beginStep_stack (s : State) : (s.beginStep).stack = s.stack := rfl
@[simp] theorem State.beginStep_depth (s : State) : (s.beginStep).depth = s.depth := rfl
@[simp] theorem State.beginStep_DT (s : State) : (s.beginStep).DT = s.DT := rfl
@[simp] theorem State.beginStep_ST (s : State) : (s.beginStep).ST = s.ST := rfl
@[simp] theorem State.beginStep_KEY (s : State) : (s.beginStep).KEY = s.KEY := rfl
@[simp] theorem State.beginStep_cycles (s : State) : (s.beginStep).cycles = s.cycles := rfl
@[simp] theorem State.beginStep_M (s : State) : (s.beginStep).M = s.M := rfl
@[simp] theorem State.beginStep_events (s : State) : (s.beginStep).events = [] := rfl
@[simp] theorem State.beginStep_draws (s : State) : (s.beginStep).draws = s.draws := rfl
@[simp] theorem State.beginStep_params (s : State) : (s.beginStep).params = s.params := rfl
@[simp] theorem State.readV_beginStep (s : State) (j : Reg) : (s.beginStep).readV j = s.readV j := rfl
@[simp] theorem State.key_beginStep (s : State) (k : Key) : (s.beginStep).key k = s.key k := rfl

/-! ### Reading a register back -/

theorem State.readV_writeV (s : State) (i : Reg) (v : Byte) (j : Reg) :
    (s.writeV i v).readV j = if i = j then v else s.readV j := by
  simp [State.readV, Vector.getElem_set, Fin.ext_iff]

@[simp] theorem State.readV_writeV_same (s : State) (i : Reg) (v : Byte) : (s.writeV i v).readV i = v := by
  simp [State.readV_writeV]

theorem State.readV_writeV_other (s : State) {i j : Reg} (v : Byte) (h : i ≠ j) :
    (s.writeV i v).readV j = s.readV j := by
  simp [State.readV_writeV, h]

@[simp] theorem State.readV_loadV (s : State) (bs : List Byte) (j : Reg) :
    (s.loadV bs).readV j = bs.getD j.val (s.readV j) := by
  simp [State.readV]

/-! ### The end of a step (R111, R114) -/

theorem State.endStep_perStep (s : State) (h : s.params.tickMode = .perStep) :
    s.endStep = { s with DT := tickTimer s.DT, ST := tickTimer s.ST, cycles := s.cycles + 1 } := by
  simp [State.endStep, h, tick]

theorem State.endStep_external (s : State) (h : s.params.tickMode = .external) :
    s.endStep = { s with cycles := s.cycles + 1 } := by
  simp [State.endStep, h]

@[simp] theorem State.endStep_V (s : State) : s.endStep.V = s.V := by
  cases h : s.params.tickMode <;> simp [State.endStep, h, tick]
@[simp] theorem State.endStep_I (s : State) : s.endStep.I = s.I := by
  cases h : s.params.tickMode <;> simp [State.endStep, h, tick]
@[simp] theorem State.endStep_PC (s : State) : s.endStep.PC = s.PC := by
  cases h : s.params.tickMode <;> simp [State.endStep, h, tick]
@[simp] theorem State.endStep_stack (s : State) : s.endStep.stack = s.stack := by
  cases h : s.params.tickMode <;> simp [State.endStep, h, tick]
@[simp] theorem State.endStep_depth (s : State) : s.endStep.depth = s.depth := by
  cases h : s.params.tickMode <;> simp [State.endStep, h, tick]
@[simp] theorem State.endStep_KEY (s : State) : s.endStep.KEY = s.KEY := by
  cases h : s.params.tickMode <;> simp [State.endStep, h, tick]
@[simp] theorem State.endStep_cycles (s : State) : s.endStep.cycles = s.cycles + 1 := by
  cases h : s.params.tickMode <;> simp [State.endStep, h, tick]
@[simp] theorem State.endStep_M (s : State) : s.endStep.M = s.M := by
  cases h : s.params.tickMode <;> simp [State.endStep, h, tick]
@[simp] theorem State.endStep_events (s : State) : s.endStep.events = s.events := by
  cases h : s.params.tickMode <;> simp [State.endStep, h, tick]
@[simp] theorem State.endStep_draws (s : State) : s.endStep.draws = s.draws := by
  cases h : s.params.tickMode <;> simp [State.endStep, h, tick]
@[simp] theorem State.endStep_params (s : State) : s.endStep.params = s.params := by
  cases h : s.params.tickMode <;> simp [State.endStep, h, tick]
@[simp] theorem State.readV_endStep (s : State) (j : Reg) : s.endStep.readV j = s.readV j := by
  simp [State.readV]
@[simp] theorem State.key_endStep (s : State) (k : Key) : s.endStep.key k = s.key k := by
  simp [State.key]

/-! ### The flagged write (R156) -/

@[simp] theorem writeFlagged_I (s : State) (x : Reg) (r : Byte) (c : Bool) :
    (writeFlagged s x r c).I = s.I := by
  cases h : s.params.vfWriteOrder <;> simp [writeFlagged, h]
@[simp] theorem writeFlagged_PC (s : State) (x : Reg) (r : Byte) (c : Bool) :
    (writeFlagged s x r c).PC = s.PC := by
  cases h : s.params.vfWriteOrder <;> simp [writeFlagged, h]
@[simp] theorem writeFlagged_stack (s : State) (x : Reg) (r : Byte) (c : Bool) :
    (writeFlagged s x r c).stack = s.stack := by
  cases h : s.params.vfWriteOrder <;> simp [writeFlagged, h]
@[simp] theorem writeFlagged_depth (s : State) (x : Reg) (r : Byte) (c : Bool) :
    (writeFlagged s x r c).depth = s.depth := by
  cases h : s.params.vfWriteOrder <;> simp [writeFlagged, h]
@[simp] theorem writeFlagged_DT (s : State) (x : Reg) (r : Byte) (c : Bool) :
    (writeFlagged s x r c).DT = s.DT := by
  cases h : s.params.vfWriteOrder <;> simp [writeFlagged, h]
@[simp] theorem writeFlagged_ST (s : State) (x : Reg) (r : Byte) (c : Bool) :
    (writeFlagged s x r c).ST = s.ST := by
  cases h : s.params.vfWriteOrder <;> simp [writeFlagged, h]
@[simp] theorem writeFlagged_KEY (s : State) (x : Reg) (r : Byte) (c : Bool) :
    (writeFlagged s x r c).KEY = s.KEY := by
  cases h : s.params.vfWriteOrder <;> simp [writeFlagged, h]
@[simp] theorem writeFlagged_cycles (s : State) (x : Reg) (r : Byte) (c : Bool) :
    (writeFlagged s x r c).cycles = s.cycles := by
  cases h : s.params.vfWriteOrder <;> simp [writeFlagged, h]
@[simp] theorem writeFlagged_M (s : State) (x : Reg) (r : Byte) (c : Bool) :
    (writeFlagged s x r c).M = s.M := by
  cases h : s.params.vfWriteOrder <;> simp [writeFlagged, h]
@[simp] theorem writeFlagged_events (s : State) (x : Reg) (r : Byte) (c : Bool) :
    (writeFlagged s x r c).events = s.events := by
  cases h : s.params.vfWriteOrder <;> simp [writeFlagged, h]
@[simp] theorem writeFlagged_draws (s : State) (x : Reg) (r : Byte) (c : Bool) :
    (writeFlagged s x r c).draws = s.draws := by
  cases h : s.params.vfWriteOrder <;> simp [writeFlagged, h]
@[simp] theorem writeFlagged_params (s : State) (x : Reg) (r : Byte) (c : Bool) :
    (writeFlagged s x r c).params = s.params := by
  cases h : s.params.vfWriteOrder <;> simp [writeFlagged, h]

/-- All a flagged write does to the registers. -/
theorem readV_writeFlagged (s : State) (x : Reg) (r : Byte) (c : Bool) (j : Reg) :
    (writeFlagged s x r c).readV j =
      if j = Reg.VF ∧ (x ≠ Reg.VF ∨ s.params.vfWriteOrder = .flagLast) then flagByte c
      else if j = x then r else s.readV j := by
  cases h : s.params.vfWriteOrder <;> simp only [writeFlagged, h, State.readV_writeV] <;> grind

@[simp] theorem flagByte_toNat (c : Bool) : (flagByte c).toNat = if c then 1 else 0 := by
  cases c <;> rfl

end Sys2Proof.Machine
end

