-- ==== Sys2Proof/Laws/Memory.lean ====
section
/-! SUPPORT. Memory: reading after writing, and that every operation keeps the canonical form. -/

namespace Sys2Proof.Machine

/-! ### Reading -/

@[simp] theorem Memory.get_nil (a : Nat) : Memory.get [] a = Memory.unlisted := rfl

theorem Memory.get_cons (c : Host.Cell) (m : Memory) (a : Nat) :
    Memory.get (c :: m) a = if c.1 = a then c.2 else Memory.get m a := rfl

/-- An address no entry names reads as an unlisted one. -/
theorem Memory.get_of_not_mem (m : Memory) (a : Nat) (h : ∀ c ∈ m, c.1 ≠ a) : m.get a = Memory.unlisted := by
  induction m with
  | nil => rfl
  | cons c m ih =>
    simp only [List.mem_cons, forall_eq_or_imp] at h
    rw [Memory.get_cons, if_neg h.1, ih h.2]

theorem Memory.get_erase (m : Memory) (a b : Nat) :
    (m.erase a).get b = if a = b then Memory.unlisted else m.get b := by
  split_ifs with hab
  · subst hab
    exact Memory.get_of_not_mem _ _ (by simp [Memory.erase])
  · induction m with
    | nil => rfl
    | cons c m ih =>
      by_cases hc : c.1 = a
      · have hcb : c.1 ≠ b := fun h => hab (hc.symm.trans h)
        simpa [Memory.erase, hc, Memory.get_cons, hcb, hab] using ih
      · simp only [Memory.erase, List.filter_cons, ne_eq, hc, not_false_eq_true, decide_true, if_true,
          Memory.get_cons] at ih ⊢
        rw [ih]

theorem Memory.get_insert (m : Memory) (a b : Nat) (v : Byte) (h : ∀ c ∈ m, c.1 ≠ a) :
    (m.insert a v).get b = if a = b then v else m.get b := by
  induction m with
  | nil => simp [Memory.insert, Memory.get_cons]
  | cons c m ih =>
    simp only [List.mem_cons, forall_eq_or_imp] at h
    simp only [Memory.insert]
    split_ifs with h1 h2 h2
    · simp [Memory.get_cons, h2]
    · simp [Memory.get_cons, h2]
    · subst h2; simp [Memory.get_cons, h.1, ih h.2]
    · simp [Memory.get_cons, ih h.2, h2]

/-- Reading a byte after a write: the value written there, every other byte as before. -/
@[simp] theorem Memory.get_set (m : Memory) (a b : Nat) (v : Byte) :
    (m.set a v).get b = if a = b then v else m.get b := by
  unfold Memory.set
  split_ifs with h1 h2 h2
  · simp [Memory.get_erase, h2, h1]
  · simp [Memory.get_erase, h2]
  · rw [Memory.get_insert _ _ _ _ (by simp [Memory.erase])]; simp [h2]
  · rw [Memory.get_insert _ _ _ _ (by simp [Memory.erase])]; simp [h2, Memory.get_erase]

/-! ### The canonical form -/

theorem Memory.wf_nil : Memory.wf [] := by simp [Memory.wf]

theorem Memory.wf_erase {m : Memory} (h : m.wf) (a : Nat) : (m.erase a).wf :=
  ⟨h.1.filter _, fun c hc => h.2 c (List.mem_of_mem_filter hc)⟩

theorem Memory.mem_insert {m : Memory} {a : Nat} {v : Byte} {c : Host.Cell} (h : c ∈ m.insert a v) :
    c = (a, v) ∨ c ∈ m := by
  induction m with
  | nil => simpa [Memory.insert] using h
  | cons d m ih =>
    simp only [Memory.insert] at h
    split_ifs at h with h1
    · simpa using h
    · rcases List.mem_cons.1 h with h | h
      · exact .inr (by simp [h])
      · rcases ih h with h | h
        · exact .inl h
        · exact .inr (by simp [h])

theorem Memory.wf_insert {m : Memory} (h : m.wf) {a : Nat} {v : Byte} (ha : a < Config.memSize)
    (hv : v ≠ Memory.unlisted) (hm : ∀ c ∈ m, c.1 ≠ a) : (m.insert a v).wf := by
  constructor
  · have h1 := h.1
    clear h
    induction m with
    | nil => simp [Memory.insert]
    | cons d m ih =>
      simp only [List.mem_cons, forall_eq_or_imp] at hm
      have hd := List.pairwise_cons.1 h1
      simp only [Memory.insert]
      split_ifs with hlt
      · refine List.pairwise_cons.2 ⟨fun c hc => ?_, h1⟩
        rcases List.mem_cons.1 hc with rfl | hc
        · exact hlt
        · exact lt_trans hlt (hd.1 c hc)
      · refine List.pairwise_cons.2 ⟨fun c hc => ?_, ih hm.2 hd.2⟩
        rcases Memory.mem_insert hc with rfl | hc
        · have := hm.1
          simp only
          omega
        · exact hd.1 c hc
  · intro c hc
    rcases Memory.mem_insert hc with rfl | hc
    · exact ⟨ha, hv⟩
    · exact h.2 c hc

/-- A write inside memory keeps the canonical form. -/
theorem Memory.wf_set {m : Memory} (h : m.wf) {a : Nat} (ha : a < Config.memSize) (v : Byte) : (m.set a v).wf := by
  unfold Memory.set
  split_ifs with hv
  · exact Memory.wf_erase h a
  · exact Memory.wf_insert (Memory.wf_erase h a) ha hv (by simp [Memory.erase])

theorem Memory.wf_copyIn {m : Memory} (h : m.wf) {addr : Nat} {bs : List Byte}
    (hb : addr + bs.length ≤ Config.memSize) : (m.copyIn addr bs).wf := by
  induction bs generalizing m addr with
  | nil => exact h
  | cons b bs ih =>
    simp only [List.length_cons] at hb
    exact ih (Memory.wf_set h (by omega) b) (by omega)

theorem storeWordAt_wf {s : State} (h : s.M.wf) (a : Nat) (w : Word) : (storeWordAt s a w).M.wf := by
  unfold storeWordAt
  split_ifs with ha
  · exact Memory.wf_set (Memory.wf_set h (by omega) _) ha _
  · exact h

theorem reset_memory_wf : State.reset.M.wf := Memory.wf_nil

/-! ### The accesses of the machine -/

/-- All that `memRead` can answer. -/
theorem memRead_eq_ok {s : State} {a : Nat} {b : Byte} :
    memRead s a = .ok b ↔ a < Config.memSize ∧ b = s.M.get a := by
  unfold memRead
  split_ifs with h
  · simp only [false_iff]; rintro ⟨h1, _⟩; omega
  · simp only [Except.ok.injEq]; constructor
    · rintro rfl; exact ⟨by omega, rfl⟩
    · rintro ⟨_, rfl⟩; rfl

/-- All that `memWrite` can do when it succeeds. -/
theorem memWrite_eq_ok {s t : State} {a : Nat} {v : Byte} :
    memWrite s a v = .ok t ↔ a < Config.memSize ∧ t = { s with M := s.M.set a v } := by
  unfold memWrite
  split_ifs with h
  · simp only [false_iff]; rintro ⟨h1, _⟩; omega
  · simp only [Except.ok.injEq]; constructor
    · rintro rfl; exact ⟨by omega, rfl⟩
    · rintro ⟨_, rfl⟩; rfl

/-- The bytes a successful `readBytes` answers. -/
theorem readBytes_ok (s : State) (a n : Nat) (h : n = 0 ∨ a + n ≤ Config.memSize) :
    readBytes s a n = .ok ((List.range n).map fun k => s.M.get (a + k)) := by
  induction n generalizing a with
  | zero => rfl
  | succ n ih =>
    have ha : a + (n + 1) ≤ Config.memSize := by omega
    have hr : memRead s a = .ok (s.M.get a) := memRead_eq_ok.2 ⟨by omega, rfl⟩
    simp only [readBytes, hr, ih (a + 1) (by omega)]
    simp [List.range_succ_eq_map, Nat.add_comm, Nat.add_left_comm]

/-- Where `readBytes` fails, and with which address: the first one out of bounds. -/
theorem readBytes_error (s : State) (a n : Nat) (h : n ≠ 0 ∧ Config.memSize < a + n) :
    readBytes s a n = .error (.outOfBoundsAccess s.PC (max a Config.memSize)) := by
  induction n generalizing a with
  | zero => exact absurd rfl h.1
  | succ n ih =>
    simp only [readBytes]
    by_cases ha : a < Config.memSize
    · have hr : memRead s a = .ok (s.M.get a) := memRead_eq_ok.2 ⟨ha, rfl⟩
      have hm : max (a + 1) Config.memSize = max a Config.memSize := by omega
      simp only [hr, ih (a + 1) ⟨by omega, by omega⟩, hm]
    · have hr : memRead s a = .error (.outOfBoundsAccess s.PC a) := by
        unfold memRead; rw [if_pos (by omega)]
      have hm : max a Config.memSize = a := by omega
      simp only [hr, hm]

/-- All that a successful `writeBytes` does: only memory changes, at the bytes written. -/
theorem writeBytes_ok (s : State) (a : Nat) (bs : List Byte) (h : bs = [] ∨ a + bs.length ≤ Config.memSize) :
    ∃ m : Memory, writeBytes s a bs = .ok { s with M := m } ∧ (s.M.wf → m.wf) ∧
      ∀ b, m.get b = if a ≤ b ∧ b < a + bs.length then bs.getD (b - a) 0 else s.M.get b := by
  induction bs generalizing a s with
  | nil => exact ⟨s.M, rfl, id, fun b => by rw [if_neg]; simp⟩
  | cons v bs ih =>
    have hlen : a + (bs.length + 1) ≤ Config.memSize := by simpa using h
    have hw : memWrite s a v = .ok { s with M := s.M.set a v } := memWrite_eq_ok.2 ⟨by omega, rfl⟩
    obtain ⟨m, hm, hwf, hget⟩ := ih { s with M := s.M.set a v } (a + 1) (.inr (by omega))
    refine ⟨m, by simp only [writeBytes, hw, hm], fun hs => hwf (Memory.wf_set hs (by omega) v), fun b => ?_⟩
    rw [hget b]
    simp only [List.length_cons, Memory.get_set]
    by_cases hb : b = a
    · subst hb; simp
    · by_cases hlt : a ≤ b
      · obtain ⟨d, rfl⟩ : ∃ d, b = a + (d + 1) := ⟨b - a - 1, by omega⟩
        have e1 : a + (d + 1) - (a + 1) = d := by omega
        have e2 : a + (d + 1) - a = d + 1 := by omega
        rw [e1, e2, List.getD_cons_succ]
        split_ifs <;> first | rfl | omega
      · rw [if_neg (by omega), if_neg (by omega), if_neg (by omega)]

/-- Where `writeBytes` fails, and with which address: the first one out of bounds. -/
theorem writeBytes_error (s : State) (a : Nat) (bs : List Byte) (h : bs ≠ [] ∧ Config.memSize < a + bs.length) :
    writeBytes s a bs = .error (.outOfBoundsAccess s.PC (max a Config.memSize)) := by
  induction bs generalizing a s with
  | nil => exact absurd rfl h.1
  | cons v bs ih =>
    simp only [writeBytes]
    by_cases ha : a < Config.memSize
    · have hw : memWrite s a v = .ok { s with M := s.M.set a v } := memWrite_eq_ok.2 ⟨ha, rfl⟩
      have hm : max (a + 1) Config.memSize = max a Config.memSize := by omega
      have hl : Config.memSize < a + 1 + bs.length := by
        have := h.2
        rw [List.length_cons] at this
        omega
      have hne : bs ≠ [] := by rintro rfl; simp only [List.length_nil] at hl; omega
      simp only [hw, ih _ (a + 1) ⟨hne, hl⟩, hm]
    · have hw : memWrite s a v = .error (.outOfBoundsAccess s.PC a) := by
        unfold memWrite; rw [if_pos (by omega)]
      have hm : max a Config.memSize = a := by omega
      simp only [hw, hm]

/-- What a `readBytes` that succeeded says. -/
theorem readBytes_eq_ok {s : State} {a n : Nat} {bs : List Byte} (h : readBytes s a n = .ok bs) :
    (n = 0 ∨ a + n ≤ Config.memSize) ∧ bs = (List.range n).map fun k => s.M.get (a + k) := by
  by_cases hc : n = 0 ∨ a + n ≤ Config.memSize
  · rw [readBytes_ok s a n hc] at h
    exact ⟨hc, (Except.ok.inj h).symm⟩
  · rw [readBytes_error s a n (by omega)] at h
    exact nomatch h

/-- What a `writeBytes` that succeeded did: only memory changed, at the bytes written. -/
theorem writeBytes_eq_ok {s t : State} {a : Nat} {bs : List Byte} (h : writeBytes s a bs = .ok t) :
    (bs = [] ∨ a + bs.length ≤ Config.memSize) ∧ ∃ m : Memory, t = { s with M := m } ∧ (s.M.wf → m.wf) ∧
      ∀ b, m.get b = if a ≤ b ∧ b < a + bs.length then bs.getD (b - a) 0 else s.M.get b := by
  by_cases hc : bs = [] ∨ a + bs.length ≤ Config.memSize
  · obtain ⟨m, hm, hwf, hget⟩ := writeBytes_ok s a bs hc
    rw [hm] at h
    exact ⟨hc, m, (Except.ok.inj h).symm, hwf, hget⟩
  · have hne : bs ≠ [] := fun e => hc (.inl e)
    rw [writeBytes_error s a bs ⟨hne, by omega⟩] at h
    exact nomatch h

/-- The keeping of the canonical form, for the machine's own write. -/
theorem memWrite_wf {s t : State} {a : Nat} {v : Byte} (h : memWrite s a v = .ok t) (hs : s.M.wf) : t.M.wf := by
  obtain ⟨ha, rfl⟩ := memWrite_eq_ok.1 h
  exact Memory.wf_set hs ha v

theorem writeBytes_wf {s t : State} {a : Nat} {bs : List Byte} (h : writeBytes s a bs = .ok t) (hs : s.M.wf) :
    t.M.wf := by
  obtain ⟨-, m, rfl, hwf, -⟩ := writeBytes_eq_ok h
  exact hwf hs

/-- Reading a memory after bytes were copied into it. -/
theorem Memory.get_copyIn (m : Memory) (addr : Nat) (bs : List Byte) (a : Nat) :
    (m.copyIn addr bs).get a = if addr ≤ a ∧ a < addr + bs.length then bs.getD (a - addr) 0 else m.get a := by
  induction bs generalizing m addr with
  | nil => rw [if_neg (by simp)]; rfl
  | cons b bs ih =>
    simp only [Memory.copyIn, ih, Memory.get_set, List.length_cons]
    by_cases hb : a = addr
    · subst hb; simp
    · by_cases hlt : addr ≤ a
      · obtain ⟨d, rfl⟩ : ∃ d, a = addr + (d + 1) := ⟨a - addr - 1, by omega⟩
        have e1 : addr + (d + 1) - (addr + 1) = d := by omega
        have e2 : addr + (d + 1) - addr = d + 1 := by omega
        rw [e1, e2, List.getD_cons_succ]
        split_ifs <;> first | rfl | omega
      · rw [if_neg (by omega), if_neg (by omega), if_neg (by omega)]

/-- All that a fetch can answer. -/
theorem fetchWord_eq_ok {s : State} {w : Word} :
    fetchWord s = .ok w ↔
      s.PC.toNat < 4095 ∧ w = wordOfBytes (s.M.get s.PC.toNat) (s.M.get (s.PC.toNat + 1)) := by
  unfold fetchWord
  simp only [Config.memSize]
  by_cases h : 4096 ≤ s.PC.toNat ∨ 4096 ≤ s.PC.toNat + 1
  · rw [if_pos h]
    exact ⟨fun e => by simp at e, fun ⟨h1, _⟩ => by omega⟩
  · rw [if_neg h]
    exact ⟨fun e => ⟨by omega, by simpa using e.symm⟩, fun ⟨_, e⟩ => by rw [e]⟩

theorem fetchWord_error {s : State} (h : 4095 ≤ s.PC.toNat) :
    fetchWord s = .error (.outOfBoundsAccess s.PC s.PC.toNat) := by
  unfold fetchWord
  simp only [Config.memSize]
  rw [if_pos (by omega)]

end Sys2Proof.Machine
end

