-- ==== Sys2Proof/Laws/Ops.lean ====
section
/-! SUPPORT. What the operations on the stack, on `I`, on the timers and on the operands can do. -/

namespace Sys2Proof.Machine

/-! ### The stack -/

theorem push_full (s : State) (v : Word) (h : s.depth.val = 16) : push s v = .error (.stackOverflow s.PC) := by
  simp [push, h]

/-- All that a successful push does. -/
theorem push_ok (s : State) (v : Word) (h : s.depth.val < 16) :
    push s v = .ok { s with stack := s.stack.set s.depth.val v, depth := ⟨s.depth.val + 1, by omega⟩ } := by
  simp [push, h]

theorem pop_empty (s : State) (h : s.depth.val = 0) : pop s = .error (.stackUnderflow s.PC) := by
  simp [pop, h]

/-- All that a successful pop does. -/
theorem pop_ok (s : State) (h : s.depth.val ≠ 0) :
    pop s = .ok (s.stack[s.depth.val - 1]'(by omega), { s with depth := ⟨s.depth.val - 1, by omega⟩ }) := by
  simp [pop, h]

/-! ### The address register -/

theorem addToI_fits (s : State) (k : Nat) (h : s.I.toNat + k ≤ 0xFFFF) :
    addToI s k = .ok (s.writeI (BitVec.ofNat 16 (s.I.toNat + k))) := by
  unfold addToI; rw [if_neg (by omega)]

theorem addToI_fault (s : State) (k : Nat) (h : 0xFFFF < s.I.toNat + k) (hp : s.params.iOverflow = .fault) :
    addToI s k = .error (.addressRegOverflow s.PC (s.I.toNat + k)) := by
  unfold addToI; rw [if_pos (by omega), hp]

theorem addToI_wrap (s : State) (k : Nat) (h : 0xFFFF < s.I.toNat + k) (hp : s.params.iOverflow = .wrap16) :
    addToI s k = .ok (s.writeI (BitVec.ofNat 16 ((s.I.toNat + k) % 65536))) := by
  unfold addToI; rw [if_pos (by omega), hp]

/-- After a transfer inside memory the increment always fits, so it only sets `I`. -/
theorem applyLdstIncrement_ok (s : State) (x : Reg) (h : s.I.toNat + x.val < Config.memSize) :
    ∃ v : Word, applyLdstIncrement s x = .ok (s.writeI v) ∧
      (s.params.ldstIncrement = .none → v = s.I) ∧
      (s.params.ldstIncrement = .nPlus1 → v.toNat = s.I.toNat + x.val + 1) ∧
      (s.params.ldstIncrement = .n → v.toNat = s.I.toNat + x.val) := by
  simp only [Config.memSize] at h
  unfold applyLdstIncrement
  cases hp : s.params.ldstIncrement with
  | none => exact ⟨s.I, rfl, by simp⟩
  | nPlus1 =>
    refine ⟨_, addToI_fits s _ (by omega), by simp, fun _ => ?_, by simp⟩
    simp only [BitVec.toNat_ofNat]; omega
  | n =>
    refine ⟨_, addToI_fits s _ (by omega), by simp, by simp, fun _ => ?_⟩
    simp only [BitVec.toNat_ofNat]; omega

/-! ### The timers -/

/-- A tick takes one from a timer and stops at zero. -/
@[simp] theorem tickTimer_toNat (t : Byte) : (tickTimer t).toNat = t.toNat - 1 := by
  unfold tickTimer
  split_ifs with h
  · have : 0 < t.toNat := by simpa [BitVec.lt_def] using h
    rw [BitVec.toNat_sub_of_le] <;> simp [BitVec.le_def]; omega
  · have : t.toNat = 0 := by simpa [BitVec.lt_def] using h
    omega

/-! ### The operands -/

theorem lowNibble_val (v : Byte) : (lowNibble v).val = v.toNat % 16 := by
  have h : v.toNat % 16 &&& 15 = v.toNat % 16 % 16 := Nat.and_two_pow_sub_one_eq_mod _ 4
  simp [lowNibble, h]

/-- The bytes StoreRegisters writes: `V[k]` at place `k`, `x + 1` of them (R185). -/
@[simp] theorem valuesUpTo_length (s : State) (x : Reg) : (s.valuesUpTo x).length = x.val + 1 := by
  simp [State.valuesUpTo]

theorem valuesUpTo_getD (s : State) (x k : Reg) (h : k ≤ x) (d : Byte) :
    (s.valuesUpTo x).getD k.val d = s.readV k := by
  have hk : k.val < x.val + 1 := by have := Fin.le_def.1 h; omega
  simp [State.valuesUpTo, hk]

/-- The lowest pressed key (R205). -/
theorem lowestKey_eq_some (s : State) (k : Key) :
    s.lowestKey = some k ↔ s.key k = true ∧ ∀ j : Key, j < k → s.key j = false := by
  unfold State.lowestKey
  rw [List.find?_eq_some_iff_getElem]
  constructor
  · rintro ⟨hk, i, hi, hik, hlt⟩
    simp only [List.getElem_finRange] at hik hlt
    refine ⟨hk, fun j hj => ?_⟩
    have hji : j.val < i := by
      have := Fin.lt_def.1 hj
      rw [← hik] at this
      simpa using this
    simpa using hlt j.val hji
  · rintro ⟨hk, hlt⟩
    refine ⟨hk, k.val, by simp, by simp, fun j hj => ?_⟩
    simpa using hlt ⟨j, by omega⟩ hj

theorem lowestKey_eq_none (s : State) : s.lowestKey = none ↔ ∀ k : Key, s.key k = false := by
  simp [State.lowestKey]

end Sys2Proof.Machine
end

