-- ==== Sys2Proof/Laws/PerInstr.lean ====
section
/-! SUPPORT. Statements made per instruction: the family `Pattern`. -/

namespace Sys2Proof.Laws

/-- The word of a well-formed instruction other than `Unknown` matches the row of R88 that has its tag. -/
def Pattern.Statement (i : Instr) : Prop :=
  ∀ strict : Bool, i.wf strict = true → i.tag ≠ 35 →
    ∃ row ∈ opcodeTable strict, row.2.2 = i.tag ∧ rowMatches row (encode i) = true

/-- A row of the table whose tag is not 34, by its mask and match. -/
theorem pattern_row {strict : Bool} {i : Instr} {mask pat : Word} (hm : (mask, pat, i.tag) ∈ opcodeTable strict)
    (ht : i.tag ≠ 34) (hp : encode i &&& mask = pat) :
    ∃ row ∈ opcodeTable strict, row.2.2 = i.tag ∧ rowMatches row (encode i) = true :=
  ⟨_, hm, rfl, by
    have h : (i.tag == 34) = false := beq_eq_false_iff_ne.2 ht
    simp only [rowMatches, hp, h, beq_self_eq_true, Bool.false_and, Bool.not_false, Bool.and_self]⟩

theorem Pattern.clearScreen : Pattern.Statement (.clearScreen) := fun _ _ _ =>
  pattern_row (mask := 0xFFFF) (pat := 0x00E0) (by simp [opcodeTable, Instr.tag]) (by simp [Instr.tag]) (by decide)

theorem Pattern.returnFromSub : Pattern.Statement (.returnFromSub) := fun _ _ _ =>
  pattern_row (mask := 0xFFFF) (pat := 0x00EE) (by simp [opcodeTable, Instr.tag]) (by simp [Instr.tag]) (by decide)

theorem Pattern.sysCall (nnn : Lit12) : Pattern.Statement (.sysCall nnn) := by
  intro strict hwf _
  have e0 : (0x00E0 : Word) = encNNN 0 0x0E0 := by decide
  have ee : (0x00EE : Word) = encNNN 0 0x0EE := by decide
  have inj : ∀ a b : Lit12, encNNN 0 a = encNNN 0 b → a = b := fun a b h => by
    have := congrArg fieldNNN h
    simpa using this
  simp only [Instr.wf, Bool.and_eq_true, bne_iff_ne] at hwf
  refine ⟨(0xF000, 0x0000, 34), by simp [opcodeTable], rfl, ?_⟩
  have h1 : (encNNN 0 nnn == 0x00E0) = false := beq_eq_false_iff_ne.2 fun h => hwf.1 (inj _ _ (h.trans e0))
  have h2 : (encNNN 0 nnn == 0x00EE) = false := beq_eq_false_iff_ne.2 fun h => hwf.2 (inj _ _ (h.trans ee))
  have h3 : encNNN 0 nnn &&& 0xF000 = 0x0000 := encNNN_mask 0 nnn
  simp only [rowMatches, encode, h1, h2, h3, beq_self_eq_true, Bool.or_self, Bool.and_false, Bool.not_false,
    Bool.and_self]

theorem Pattern.jump (nnn : Lit12) : Pattern.Statement (.jump nnn) := fun _ _ _ =>
  pattern_row (mask := 0xF000) (pat := 0x1000) (by simp [opcodeTable, Instr.tag]) (by simp [Instr.tag]) ((encNNN_mask 0x1 nnn).trans (by decide))

theorem Pattern.call (nnn : Lit12) : Pattern.Statement (.call nnn) := fun _ _ _ =>
  pattern_row (mask := 0xF000) (pat := 0x2000) (by simp [opcodeTable, Instr.tag]) (by simp [Instr.tag]) ((encNNN_mask 0x2 nnn).trans (by decide))

theorem Pattern.skipEquals (x : Reg) (kk : Byte) : Pattern.Statement (.skipEquals x kk) := fun _ _ _ =>
  pattern_row (mask := 0xF000) (pat := 0x3000) (by simp [opcodeTable, Instr.tag]) (by simp [Instr.tag]) ((encXKK_mask 0x3 x kk).trans (by decide))

theorem Pattern.skipNotEquals (x : Reg) (kk : Byte) : Pattern.Statement (.skipNotEquals x kk) := fun _ _ _ =>
  pattern_row (mask := 0xF000) (pat := 0x4000) (by simp [opcodeTable, Instr.tag]) (by simp [Instr.tag]) ((encXKK_mask 0x4 x kk).trans (by decide))

theorem Pattern.skipRegEquals (x y : Reg) : Pattern.Statement (.skipRegEquals x y) := by
  intro strict _ _
  cases strict
  · exact pattern_row (mask := 0xF000) (pat := 0x5000) (by simp [opcodeTable, Instr.tag]) (by simp [Instr.tag])
      ((encXYN_mask 0x5 x y 0x0).trans (by decide))
  · exact pattern_row (mask := 0xF00F) (pat := 0x5000) (by simp [opcodeTable, Instr.tag]) (by simp [Instr.tag])
      ((encXYN_mask_low 0x5 x y 0x0).trans (by decide))

theorem Pattern.setReg (x : Reg) (kk : Byte) : Pattern.Statement (.setReg x kk) := fun _ _ _ =>
  pattern_row (mask := 0xF000) (pat := 0x6000) (by simp [opcodeTable, Instr.tag]) (by simp [Instr.tag]) ((encXKK_mask 0x6 x kk).trans (by decide))

theorem Pattern.addConst (x : Reg) (kk : Byte) : Pattern.Statement (.addConst x kk) := fun _ _ _ =>
  pattern_row (mask := 0xF000) (pat := 0x7000) (by simp [opcodeTable, Instr.tag]) (by simp [Instr.tag]) ((encXKK_mask 0x7 x kk).trans (by decide))

theorem Pattern.copyReg (x y : Reg) : Pattern.Statement (.copyReg x y) := fun _ _ _ =>
  pattern_row (mask := 0xF00F) (pat := 0x8000) (by simp [opcodeTable, Instr.tag]) (by simp [Instr.tag]) ((encXYN_mask_low 0x8 x y 0x0).trans (by decide))

theorem Pattern.orReg (x y : Reg) : Pattern.Statement (.orReg x y) := fun _ _ _ =>
  pattern_row (mask := 0xF00F) (pat := 0x8001) (by simp [opcodeTable, Instr.tag]) (by simp [Instr.tag]) ((encXYN_mask_low 0x8 x y 0x1).trans (by decide))

theorem Pattern.andReg (x y : Reg) : Pattern.Statement (.andReg x y) := fun _ _ _ =>
  pattern_row (mask := 0xF00F) (pat := 0x8002) (by simp [opcodeTable, Instr.tag]) (by simp [Instr.tag]) ((encXYN_mask_low 0x8 x y 0x2).trans (by decide))

theorem Pattern.xorReg (x y : Reg) : Pattern.Statement (.xorReg x y) := fun _ _ _ =>
  pattern_row (mask := 0xF00F) (pat := 0x8003) (by simp [opcodeTable, Instr.tag]) (by simp [Instr.tag]) ((encXYN_mask_low 0x8 x y 0x3).trans (by decide))

theorem Pattern.addReg (x y : Reg) : Pattern.Statement (.addReg x y) := fun _ _ _ =>
  pattern_row (mask := 0xF00F) (pat := 0x8004) (by simp [opcodeTable, Instr.tag]) (by simp [Instr.tag]) ((encXYN_mask_low 0x8 x y 0x4).trans (by decide))

theorem Pattern.subReg (x y : Reg) : Pattern.Statement (.subReg x y) := fun _ _ _ =>
  pattern_row (mask := 0xF00F) (pat := 0x8005) (by simp [opcodeTable, Instr.tag]) (by simp [Instr.tag]) ((encXYN_mask_low 0x8 x y 0x5).trans (by decide))

theorem Pattern.rightShiftReg (x y : Reg) : Pattern.Statement (.rightShiftReg x y) := fun _ _ _ =>
  pattern_row (mask := 0xF00F) (pat := 0x8006) (by simp [opcodeTable, Instr.tag]) (by simp [Instr.tag]) ((encXYN_mask_low 0x8 x y 0x6).trans (by decide))

theorem Pattern.subRegRev (x y : Reg) : Pattern.Statement (.subRegRev x y) := fun _ _ _ =>
  pattern_row (mask := 0xF00F) (pat := 0x8007) (by simp [opcodeTable, Instr.tag]) (by simp [Instr.tag]) ((encXYN_mask_low 0x8 x y 0x7).trans (by decide))

theorem Pattern.leftShiftReg (x y : Reg) : Pattern.Statement (.leftShiftReg x y) := fun _ _ _ =>
  pattern_row (mask := 0xF00F) (pat := 0x800E) (by simp [opcodeTable, Instr.tag]) (by simp [Instr.tag]) ((encXYN_mask_low 0x8 x y 0xE).trans (by decide))

theorem Pattern.skipRegNotEquals (x y : Reg) : Pattern.Statement (.skipRegNotEquals x y) := by
  intro strict _ _
  cases strict
  · exact pattern_row (mask := 0xF000) (pat := 0x9000) (by simp [opcodeTable, Instr.tag]) (by simp [Instr.tag])
      ((encXYN_mask 0x9 x y 0x0).trans (by decide))
  · exact pattern_row (mask := 0xF00F) (pat := 0x9000) (by simp [opcodeTable, Instr.tag]) (by simp [Instr.tag])
      ((encXYN_mask_low 0x9 x y 0x0).trans (by decide))

theorem Pattern.setAddressReg (nnn : Lit12) : Pattern.Statement (.setAddressReg nnn) := fun _ _ _ =>
  pattern_row (mask := 0xF000) (pat := 0xA000) (by simp [opcodeTable, Instr.tag]) (by simp [Instr.tag]) ((encNNN_mask 0xA nnn).trans (by decide))

theorem Pattern.jumpIndirect (nnn : Lit12) : Pattern.Statement (.jumpIndirect nnn) := fun _ _ _ =>
  pattern_row (mask := 0xF000) (pat := 0xB000) (by simp [opcodeTable, Instr.tag]) (by simp [Instr.tag]) ((encNNN_mask 0xB nnn).trans (by decide))

theorem Pattern.randomNumber (x : Reg) (kk : Byte) : Pattern.Statement (.randomNumber x kk) := fun _ _ _ =>
  pattern_row (mask := 0xF000) (pat := 0xC000) (by simp [opcodeTable, Instr.tag]) (by simp [Instr.tag]) ((encXKK_mask 0xC x kk).trans (by decide))

theorem Pattern.drawSprite (x y : Reg) (n : Count) : Pattern.Statement (.drawSprite x y n) := fun _ _ _ =>
  pattern_row (mask := 0xF000) (pat := 0xD000) (by simp [opcodeTable, Instr.tag]) (by simp [Instr.tag]) ((encXYN_mask 0xD x y _).trans (by decide))

theorem Pattern.keyIsPressed (x : Reg) : Pattern.Statement (.keyIsPressed x) := fun _ _ _ =>
  pattern_row (mask := 0xF0FF) (pat := 0xE09E) (by simp [opcodeTable, Instr.tag]) (by simp [Instr.tag]) ((encXKK_mask_low 0xE x 0x9E).trans (by decide))

theorem Pattern.keyIsntPressed (x : Reg) : Pattern.Statement (.keyIsntPressed x) := fun _ _ _ =>
  pattern_row (mask := 0xF0FF) (pat := 0xE0A1) (by simp [opcodeTable, Instr.tag]) (by simp [Instr.tag]) ((encXKK_mask_low 0xE x 0xA1).trans (by decide))

theorem Pattern.readDelayTimer (x : Reg) : Pattern.Statement (.readDelayTimer x) := fun _ _ _ =>
  pattern_row (mask := 0xF0FF) (pat := 0xF007) (by simp [opcodeTable, Instr.tag]) (by simp [Instr.tag]) ((encXKK_mask_low 0xF x 0x07).trans (by decide))

theorem Pattern.awaitKeyPress (x : Reg) : Pattern.Statement (.awaitKeyPress x) := fun _ _ _ =>
  pattern_row (mask := 0xF0FF) (pat := 0xF00A) (by simp [opcodeTable, Instr.tag]) (by simp [Instr.tag]) ((encXKK_mask_low 0xF x 0x0A).trans (by decide))

theorem Pattern.setDelayTimer (x : Reg) : Pattern.Statement (.setDelayTimer x) := fun _ _ _ =>
  pattern_row (mask := 0xF0FF) (pat := 0xF015) (by simp [opcodeTable, Instr.tag]) (by simp [Instr.tag]) ((encXKK_mask_low 0xF x 0x15).trans (by decide))

theorem Pattern.setSoundTimer (x : Reg) : Pattern.Statement (.setSoundTimer x) := fun _ _ _ =>
  pattern_row (mask := 0xF0FF) (pat := 0xF018) (by simp [opcodeTable, Instr.tag]) (by simp [Instr.tag]) ((encXKK_mask_low 0xF x 0x18).trans (by decide))

theorem Pattern.addAddressReg (x : Reg) : Pattern.Statement (.addAddressReg x) := fun _ _ _ =>
  pattern_row (mask := 0xF0FF) (pat := 0xF01E) (by simp [opcodeTable, Instr.tag]) (by simp [Instr.tag]) ((encXKK_mask_low 0xF x 0x1E).trans (by decide))

theorem Pattern.addressKeySprite (x : Reg) : Pattern.Statement (.addressKeySprite x) := fun _ _ _ =>
  pattern_row (mask := 0xF0FF) (pat := 0xF029) (by simp [opcodeTable, Instr.tag]) (by simp [Instr.tag]) ((encXKK_mask_low 0xF x 0x29).trans (by decide))

theorem Pattern.storeBCDAtAddress (x : Reg) : Pattern.Statement (.storeBCDAtAddress x) := fun _ _ _ =>
  pattern_row (mask := 0xF0FF) (pat := 0xF033) (by simp [opcodeTable, Instr.tag]) (by simp [Instr.tag]) ((encXKK_mask_low 0xF x 0x33).trans (by decide))

theorem Pattern.storeRegisters (x : Reg) : Pattern.Statement (.storeRegisters x) := fun _ _ _ =>
  pattern_row (mask := 0xF0FF) (pat := 0xF055) (by simp [opcodeTable, Instr.tag]) (by simp [Instr.tag]) ((encXKK_mask_low 0xF x 0x55).trans (by decide))

theorem Pattern.loadRegisters (x : Reg) : Pattern.Statement (.loadRegisters x) := fun _ _ _ =>
  pattern_row (mask := 0xF0FF) (pat := 0xF065) (by simp [opcodeTable, Instr.tag]) (by simp [Instr.tag]) ((encXKK_mask_low 0xF x 0x65).trans (by decide))

theorem Pattern.unknown (raw : Word) : Pattern.Statement (.unknown raw) := fun _ _ h => absurd rfl h

end Sys2Proof.Laws
end

