-- ==== Sys2Proof/Laws/Step.lean ====
section
/-! SUPPORT. What a step can do, and frames. -/

namespace Sys2Proof.Machine

/-- All that a step that succeeds can be: a fetch in bounds, an execution that answers a next state, the end of the
step. -/
theorem step_eq_next {s u : State} :
    step s = .next u ↔
      s.PC.toNat < 4095 ∧ ∃ t, exec (fetchedInstr s) s.beginStep = .next t ∧ u = t.endStep := by
  unfold step
  by_cases h : s.PC.toNat < 4095
  · have hf : fetchWord s = .ok (wordAtPC s) := fetchWord_eq_ok.2 ⟨h, rfl⟩
    simp only [hf, h, true_and, fetchedInstr]
    cases exec (decodeWord s.params.strict59 (wordAtPC s)) s.beginStep <;> simp [eq_comm]
  · simp [fetchWord_error (show 4095 ≤ s.PC.toNat by omega), raise, h]

theorem Frame.refl (writes : Field → Prop) (s : State) : Frame writes s s := by
  intro f _
  cases f <;> rfl

theorem Frame.trans {writes : Field → Prop} {s t u : State} (h1 : Frame writes s t) (h2 : Frame writes t u) :
    Frame writes s u := by
  intro f hf
  have a := h1 f hf
  have b := h2 f hf
  cases f <;> exact Eq.trans b a

theorem Frame.mono {w w' : Field → Prop} {s t : State} (h : Frame w s t) (hw : ∀ f, w f → w' f) : Frame w' s t :=
  fun f hf => h f fun hwf => hf (hw f hwf)

/-- The frame of a write to one register. -/
theorem frame_writeV (s : State) (x : Reg) (v : Byte) : Frame (· = .V x) s (s.writeV x v) := by
  intro f hf
  cases f <;> first | rfl | skip
  rename_i r
  exact State.readV_writeV_other s v fun h => hf (by rw [h])

/-- The frame of the default advance. -/
theorem frame_advance (s : State) : Frame (· = .PC) s s.advance := by
  intro f hf
  cases f <;> first | rfl | exact absurd rfl hf

/-- The frame of a flagged write. -/
theorem frame_writeFlagged (s : State) (x : Reg) (r : Byte) (c : Bool) :
    Frame (· ∈ [.V x, .V Reg.VF]) s (writeFlagged s x r c) := by
  unfold writeFlagged
  cases s.params.vfWriteOrder
  · exact ((frame_writeV s x r).mono (by rintro f rfl; simp)).trans ((frame_writeV _ _ _).mono (by rintro f rfl; simp))
  · exact ((frame_writeV s _ _).mono (by rintro f rfl; simp)).trans ((frame_writeV _ _ _).mono (by rintro f rfl; simp))

/-- The frame of a tick. -/
theorem frame_tick (s : State) : Frame (· ∈ [.DT, .ST]) s (tick s) := by
  intro f hf
  cases f <;> first | rfl | simp_all

/-- The frame of the end of a step. -/
theorem frame_endStep (s : State) : Frame (· ∈ [.DT, .ST, .cycles]) s s.endStep := by
  intro f hf
  cases f <;> simp_all [Field.same]

end Sys2Proof.Machine
end

