-- ==== Sys2Proof/Tests/Slice0.lean ====
section
/-! SUPPORT. Tests: the well-formedness checks, words written out from the spec's encodings, one step each from
spec/95_test_vectors.md, and a witness for the hypotheses of every statement that has some. -/

namespace Sys2Proof.Tests

open Sys2Proof.Machine

/-! ## Helpers -/

/-- A part of the next state, if there is one. -/
def after {α : Type} (o : Host.Outcome State Fault Refusal) (f : State → α) : Option α :=
  match o with
  | .next t => some (f t)
  | .fault _ => none
  | .refused _ => none

/-- The error, if there is one. -/
def errorOf (o : Host.Outcome State Fault Refusal) : Option Fault :=
  match o with
  | .next _ => none
  | .fault f => some f
  | .refused _ => none

/-- The reset state with the given registers and the given word at `PC`. -/
def st (w : Nat) (regs : List (Reg × Byte)) : State :=
  regs.foldl (fun s r => s.writeV r.1 r.2) (State.reset.withFetchWord 16 w)

/-- The same with `I` set. -/
def stI (w : Nat) (i : Word) (regs : List (Reg × Byte)) : State := (st w regs).writeI i

/-- The same with the given keys pressed. -/
def stK (w : Nat) (keys : List Key) (regs : List (Reg × Byte)) : State :=
  { st w regs with KEY := Vector.ofFn fun k : Fin 16 => keys.contains k }

/-- A state with `d` entries, all 0x204, on the stack. -/
def stD (w : Nat) (d : Fin 17) : State := { st w [] with depth := d, stack := Vector.replicate 16 0x204 }

/-! ## WellFormed: a term each check refuses -/

theorem test_wf_refuses_sysCall_0E0 : Instr.wf true (.sysCall 0x0E0) = false := by decide
theorem test_wf_refuses_sysCall_0EE : Instr.wf true (.sysCall 0x0EE) = false := by decide
theorem test_wf_refuses_known_word_as_unknown : Instr.wf true (.unknown 0x8120) = false := by decide
theorem test_wf_unknown_depends_on_strict :
    Instr.wf true (.unknown 0x5121) = true ∧ Instr.wf false (.unknown 0x5121) = false := by decide

/-! ## Decoding: words written out from R78 to R85 (spec/95_test_vectors.md Part 2) -/

theorem test_decode_family0 :
    decodeWord true 0b0000000011100000 = .clearScreen ∧ decodeWord true 0b0000000011101110 = .returnFromSub ∧
    decodeWord true 0x0000 = .sysCall 0 ∧ decodeWord true 0x01E0 = .sysCall 0x1E0 ∧
    decodeWord true 0x00E1 = .sysCall 0x0E1 ∧ decodeWord true 0x0FFF = .sysCall 0xFFF := by decide
theorem test_decode_nnn :
    decodeWord true 0x1FFF = .jump 0xFFF ∧ decodeWord true 0x2ABC = .call 0xABC ∧
    decodeWord true 0xA300 = .setAddressReg 0x300 ∧ decodeWord true 0xBFFF = .jumpIndirect 0xFFF := by decide
theorem test_decode_xkk :
    decodeWord true 0x3A06 = .skipEquals 0xA 0x06 ∧ decodeWord true 0x4B7F = .skipNotEquals 0xB 0x7F ∧
    decodeWord true 0b0110101000000101 = .setReg 0xA 0x05 ∧ decodeWord true 0x7A01 = .addConst 0xA 0x01 ∧
    decodeWord true 0xC30F = .randomNumber 3 0x0F := by decide
theorem test_decode_families_5_and_9 :
    decodeWord true 0x5120 = .skipRegEquals 1 2 ∧ decodeWord true 0x5121 = .unknown 0x5121 ∧
    decodeWord false 0x5121 = .skipRegEquals 1 2 ∧ decodeWord true 0x9120 = .skipRegNotEquals 1 2 ∧
    decodeWord true 0x912F = .unknown 0x912F ∧ decodeWord false 0x912F = .skipRegNotEquals 1 2 := by decide
theorem test_decode_family8 :
    decodeWord true 0x8120 = .copyReg 1 2 ∧ decodeWord true 0x8121 = .orReg 1 2 ∧
    decodeWord true 0x8122 = .andReg 1 2 ∧ decodeWord true 0x8123 = .xorReg 1 2 ∧
    decodeWord true 0x8124 = .addReg 1 2 ∧ decodeWord true 0x8125 = .subReg 1 2 ∧
    decodeWord true 0x8126 = .rightShiftReg 1 2 ∧ decodeWord true 0x8127 = .subRegRev 1 2 ∧
    decodeWord true 0x812E = .leftShiftReg 1 2 ∧ decodeWord true 0x8128 = .unknown 0x8128 ∧
    decodeWord true 0x800F = .unknown 0x800F := by decide
theorem test_decode_families_D_and_E :
    decodeWord true 0b1101001110100111 = .drawSprite 3 0xA 7 ∧ decodeWord true 0xD000 = .drawSprite 0 0 0 ∧
    decodeWord true 0xE49E = .keyIsPressed 4 ∧ decodeWord true 0xE4A1 = .keyIsntPressed 4 ∧
    decodeWord true 0xE09F = .unknown 0xE09F := by decide
theorem test_decode_familyF :
    decodeWord true 0xF107 = .readDelayTimer 1 ∧ decodeWord true 0xF20A = .awaitKeyPress 2 ∧
    decodeWord true 0xF015 = .setDelayTimer 0 ∧ decodeWord true 0xF018 = .setSoundTimer 0 ∧
    decodeWord true 0xF11E = .addAddressReg 1 ∧ decodeWord true 0xF229 = .addressKeySprite 2 ∧
    decodeWord true 0xF033 = .storeBCDAtAddress 0 ∧ decodeWord true 0xFF55 = .storeRegisters 0xF ∧
    decodeWord true 0xF265 = .loadRegisters 2 ∧ decodeWord true 0xF030 = .unknown 0xF030 ∧
    decodeWord true 0xFFFF = .unknown 0xFFFF := by decide
/-- The port vector of Part 2. -/
theorem test_ports : decoderPorts true 0xD3A7 =
    { tag := 22, x := 0x3, y := 0xA, n := 0x7, kk := 0xA7, nnn := 0x3A7, raw := 0xD3A7 } := by decide
theorem test_decode_bytes_needs_two : decodeBytes true [0x12] = .error .tooFewBytes := rfl
theorem test_table_word : decodeTableWord 16 0x6A05 = some (.setReg 0xA 0x05) := by decide
/-- The examples of R93. -/
theorem test_render :
    (Instr.setReg 0xA 0x05).render = "SetReg VA, 0x05" ∧ (Instr.drawSprite 0 1 5).render = "DrawSprite V0, V1, 5" ∧
    (Instr.unknown 0x5121).render = "Unknown 0x5121" := by decide

/-! ## Control flow (X vectors) -/

theorem test_jump_X2 : after (step (st 0x1203 [])) (·.PC) = some 0x203 := by decide
theorem test_call_X4 :
    after (step (st 0x2203 [])) (fun t => (t.stack[0], t.depth, t.PC)) = some (0x202, 1, 0x203) := by decide
theorem test_call_X6 : errorOf (step (stD 0x2300 16)) = some (.stackOverflow 0x200) := by decide
theorem test_return_X7 : after (step (stD 0x00EE 1)) (fun t => (t.PC, t.depth)) = some (0x204, 0) := by decide
theorem test_return_X11 : errorOf (step (st 0x00EE [])) = some (.stackUnderflow 0x200) := by decide
theorem test_jumpIndirect_X10 : after (step (st 0xBFFF [(0, 0xFF)])) (·.PC) = some 0x10FE := by decide
theorem test_skipEquals_W3 : after (step (st 0x3A06 [(0xA, 6)])) (·.PC) = some 0x204 := by decide
theorem test_skipEquals_X13 : after (step (st 0x3A06 [(0xA, 5)])) (·.PC) = some 0x202 := by decide
theorem test_skipNotEquals_X14 : after (step (st 0x4311 [(3, 0x10)])) (·.PC) = some 0x204 := by decide
theorem test_skipRegEquals_X17 : after (step (st 0x5110 [])) (·.PC) = some 0x204 := by decide
theorem test_skipRegNotEquals_X19 : after (step (st 0x9120 [(1, 7), (2, 8)])) (·.PC) = some 0x204 := by decide
theorem test_skipRegNotEquals_X20 : after (step (st 0x9110 [])) (·.PC) = some 0x202 := by decide

/-! ## Register and ALU (A vectors) -/

theorem test_setReg_A1 : after (step (st 0x6A05 [])) (·.readV 0xA) = some 0x05 := by decide
theorem test_addConst_A2 : after (step (st 0x7FFF [(0xF, 1)])) (·.readV 0xF) = some 0 := by decide
theorem test_copyReg_A4 : after (step (st 0x8120 [(2, 0x33)])) (·.readV 1) = some 0x33 := by decide
theorem test_orReg_A6 :
    after (step (st 0x81F1 [(1, 0x01), (0xF, 0x80)])) (fun t => (t.readV 1, t.readV 0xF)) = some (0x81, 0x80) := by
  decide
theorem test_andReg_A7 : after (step (st 0x8122 [(1, 0x3C), (2, 0x0F)])) (·.readV 1) = some 0x0C := by decide
theorem test_xorReg_A8 : after (step (st 0x8113 [(1, 0x5A)])) (·.readV 1) = some 0 := by decide
theorem test_addReg_A9 :
    after (step (st 0x8014 [(0, 0x80), (1, 0x80)])) (fun t => (t.readV 0, t.readV 0xF)) = some (0, 1) := by decide
theorem test_addReg_A11_flagLast : after (step (st 0x8F14 [(0xF, 0x80), (1, 0x10)])) (·.readV 0xF) = some 0 := by
  decide
theorem test_addReg_A11_resultLast :
    after (step { st 0x8F14 [(0xF, 0x80), (1, 0x10)] with
      params := { paramsOfSpec with vfWriteOrder := .resultLast } }) (·.readV 0xF) = some 0x90 := by decide
theorem test_subReg_A13 :
    after (step (st 0x8015 [(0, 5), (1, 5)])) (fun t => (t.readV 0, t.readV 0xF)) = some (0, 1) := by decide
theorem test_subReg_A14 :
    after (step (st 0x8015 [(0, 0), (1, 1)])) (fun t => (t.readV 0, t.readV 0xF)) = some (0xFF, 0) := by decide
theorem test_subRegRev_A17 :
    after (step (st 0x8017 [(0, 5), (1, 3)])) (fun t => (t.readV 0, t.readV 0xF)) = some (0xFE, 0) := by decide
theorem test_rightShift_A18_vx :
    after (step (st 0x8126 [(1, 0x01), (2, 0xF0)])) (fun t => (t.readV 1, t.readV 0xF)) = some (0, 1) := by decide
theorem test_rightShift_A18_vy :
    after (step { st 0x8126 [(1, 0x01), (2, 0xF0)] with params := { paramsOfSpec with shiftSource := .vy } })
      (fun t => (t.readV 1, t.readV 0xF)) = some (0x78, 0) := by decide
theorem test_leftShift_A20 :
    after (step (st 0x812E [(1, 0x80), (2, 0x01)])) (fun t => (t.readV 1, t.readV 0xF)) = some (0, 1) := by decide
theorem test_leftShift_A21 :
    after (step (st 0x800E [(0, 0x7F)])) (fun t => (t.readV 0, t.readV 0xF)) = some (0xFE, 0) := by decide
theorem test_random_A24 : after (randomNumberWith 0xA7 3 0x0F (st 0xC30F [])) (·.readV 3) = some 0x07 := by decide
theorem test_random_A22 : after (randomNumberWith 0xFF 0 0x00 (st 0xC000 [])) (·.readV 0) = some 0 := by decide

/-! ## Address register and memory (M vectors) -/

theorem test_setAddressReg_M1 : after (step (st 0xA300 [])) (·.I) = some 0x300 := by decide
theorem test_addAddressReg_M3 : after (step (stI 0xF01E 0x0FFF [(0, 0xFF)])) (·.I) = some 0x10FE := by decide
theorem test_addAddressReg_M4 :
    errorOf (step (stI 0xF01E 0xFFFF [(0, 1)])) = some (.addressRegOverflow 0x200 0x10000) := by decide
theorem test_addressKeySprite_M5 :
    after (step (st 0xF029 [(0, 0x1A)])) (·.I) =
      some (BitVec.ofNat 16 (Config.fontBase.toNat + Config.glyphStride.toNat * 0xA)) := rfl
theorem test_bcd_W5 :
    after (step (stI 0xF033 0x300 [(0, 156)])) (fun t => (t.M.get 0x300, t.M.get 0x301, t.M.get 0x302, t.I)) =
      some (1, 5, 6, 0x300) := by decide
theorem test_bcd_M12 :
    errorOf (step (stI 0xF033 0xFFE [(0, 7)])) = some (.outOfBoundsAccess 0x200 0x1000) := by decide
theorem test_storeRegisters_M15_nPlus1 :
    after (step { stI 0xF155 0x300 [(0, 9), (1, 8)] with params := { paramsOfSpec with ldstIncrement := .nPlus1 } })
      (fun t => (t.M.get 0x300, t.M.get 0x301, t.M.get 0x302, t.I)) = some (9, 8, 0, 0x302) := by decide
theorem test_storeRegisters_M14 :
    errorOf (step (stI 0xFF55 0xFF1 [])) = some (.outOfBoundsAccess 0x200 0x1000) := by decide
theorem test_loadRegisters_M16 :
    after (step { stI 0xF065 0xFFF [] with M := (st 0xF065 []).M.set 0xFFF 0x42 }) (·.readV 0) = some 0x42 := by
  decide
theorem test_loadRegisters_above_x :
    after (step { stI 0xF165 0x300 [(2, 7)] with M := ((st 0xF165 []).M.set 0x300 1).set 0x301 5 })
      (fun t => (t.readV 0, t.readV 1, t.readV 2)) = some (1, 5, 7) := by decide

/-! ## Display, keypad and timers (K vectors) -/

theorem test_clearScreen_K1 :
    after (step (st 0x00E0 [])) (fun t => (t.events, t.PC, t.V)) =
      some ([.clear], 0x202, Vector.replicate 16 0) := by decide
theorem test_draw_K3 :
    after (drawSpriteWith true 0xF 0xF 1 { stI 0xDFF1 0x300 [(0xF, 9)] with M := [(0x300, 0x80)] })
      (fun t => (t.events, t.readV 0xF)) = some ([.draw 9 9 [0x80]], 1) := by decide
theorem test_draw_K4 :
    after (step (stI 0xD010 0xFFFF [(0, 1), (1, 2)])) (·.events) = some [.draw 1 2 []] := by decide
theorem test_keyIsPressed_K6 : after (step (stK 0xE09E [5] [(0, 0x15)])) (·.PC) = some 0x204 := by decide
theorem test_keyIsntPressed_K7 : after (step (stK 0xE0A1 [5] [(0, 0x15)])) (·.PC) = some 0x202 := by decide
theorem test_await_K9 :
    after (step (stK 0xF00A [3, 7] [])) (fun t => (t.readV 0, t.PC)) = some (3, 0x202) := by decide
theorem test_await_K10 :
    after (step { st 0xF00A [] with DT := 2, ST := 1 }) (fun t => (t.PC, t.DT, t.ST, t.cycles)) =
      some (0x200, 1, 0, 1) := by decide
theorem test_readDelay_K11 :
    after (step { st 0xF107 [] with DT := 4 }) (fun t => (t.readV 1, t.DT)) = some (4, 3) := by decide
theorem test_setDelay_K13 : after (step (st 0xF015 [(0, 5)])) (·.DT) = some 4 := by decide
theorem test_setDelay_K13_external :
    after (step { st 0xF015 [(0, 5)] with params := { paramsOfSpec with tickMode := .external } }) (·.DT) =
      some 5 := by decide
theorem test_setSound_K15 : after (step (st 0xF018 [(0, 1)])) (·.ST) = some 0 := by decide
theorem test_setSound_K16 : after (step (st 0xF018 [(0, 0x20)])) (·.ST) = some 0x1F := by decide

/-! ## Invalid words and fetch (E vectors) -/

theorem test_sysCall_E3 : errorOf (step (st 0x0123 [])) = some (.unsupportedInstruction 0x200 0x123) := by decide
theorem test_unknown_E4 : errorOf (step (st 0x800F [])) = some (.invalidOpcode 0x200 0x800F) := by decide
theorem test_fetch_E7 :
    after (step ((State.reset.setPC 0xFFE).withFetchWord 16 0x1FFE)) (·.PC) = some 0xFFE := by decide
theorem test_fetch_E8 : errorOf (step (State.reset.setPC 0xFFF)) = some (.outOfBoundsAccess 0xFFF 0xFFF) := by decide

/-! ## Reset and the host -/

/-- R272: the default font image, which is zeros, and an empty ROM give the reset state. -/
theorem test_reset_is_construction :
    State.reset = construct paramsOfSpec [] [] ∧ State.reset = construct paramsOfSpec (List.replicate 8 0) [] := by
  decide
theorem test_construct_rom :
    ((construct paramsOfSpec [] [0x6A, 0x05]).M.get 0x200, (construct paramsOfSpec [] [0x6A, 0x05]).M.get 0x202) =
      (0x6A, 0) := by decide
/-- P4, from step 4 on: the host's key is taken by the next step. -/
theorem test_host_key :
    after (runActions [.step, .host (.setKeys (Vector.ofFn fun k : Fin 16 => k = 9 ∨ k = 0xC)), .step] (st 0xF20A []))
      (fun t => (t.readV 2, t.PC)) = some (9, 0x202) := by decide

/-! ## The hypotheses of the statements are met -/

theorem witness_DecodeOfEncodeIsIdentity :
    (Instr.unknown 0x8008).wf true = true ∧ (Instr.sysCall 0x0EF).wf false = true := by decide

theorem witness_StepRunsTheDecodedInstruction :
    let s := (State.reset.setPC 4094).withFetchWord 16 0x6A05
    s.PC.toNat < 4095 ∧ decodeWord s.params.strict59 (s.M.get s.PC.toNat ++ s.M.get (s.PC.toNat + 1)) = .setReg 0xA 5 ∧
      (∃ t, exec (.setReg 0xA 5) s.beginStep = .next t) ∧
      ∃ u : State, u.PC.toNat < 4095 ∧ ∃ f, exec (fetchedInstr u) u.beginStep = .fault f :=
  ⟨by decide, by decide, ⟨_, rfl⟩, State.reset, by decide, _, rfl⟩

theorem witness_FetchOutOfBoundsEndsTheStep : 4095 ≤ (State.reset.setPC 4095).PC.toNat := by decide

theorem witness_FetchSeesStoredBytes :
    ∃ t u : State, writeBytes State.reset 4094 [0x12, 0x0A] = .ok t ∧ u.M = t.M ∧ u.PC.toNat = 4094 :=
  ⟨_, { State.reset with M := State.reset.M.set 4094 0x12 |>.set 4095 0x0A, PC := 4094 }, rfl, rfl, by decide⟩

theorem witness_WithFetchWordIsFetchedNext : (State.reset.setPC 4094).PC.toNat < 4095 ∧ 65535 < 65536 := by decide

theorem witness_CallPushesTheReturnAddress :
    (stD 0 0).depth.val < 16 ∧ (stD 0 15).depth.val < 16 ∧ (stD 0 16).depth.val = 16 := by decide

theorem witness_ReturnPopsIntoPC :
    (stD 0 1).depth.val ≠ 0 ∧ (stD 0 16).depth.val ≠ 0 ∧ (stD 0 0).depth.val = 0 := by decide

theorem witness_NestedCallsReturnInReverse :
    (List.replicate 16 (0x200 : Lit12)) ≠ [] ∧ State.reset.depth.val + (List.replicate 16 (0x200 : Lit12)).length ≤ 16 ∧
      16 < State.reset.depth.val + (List.replicate 17 (0x200 : Lit12)).length := by decide

theorem witness_SubtractionsWrapAroundIdentity :
    ∃ t u, (0 : Reg) ≠ Reg.VF ∧ exec (.subReg 0 1) (st 0 [(0, 5), (1, 3)]) = .next t ∧
      exec (.subRegRev 0 1) (st 0 [(0, 5), (1, 3)]) = .next u :=
  ⟨_, _, by decide, rfl, rfl⟩

theorem witness_ShiftsResultAndShiftedOutBit :
    let s := st 0 [(1, 0x81)]
    (s.params.shiftSource = .vx → (0x81 : Nat) = (s.readV 1).toNat) ∧
      (s.params.shiftSource = .vy → (0x81 : Nat) = (s.readV 2).toNat) ∧
      ∃ u : State, u.params.shiftSource = .vy := by
  refine ⟨by decide, by decide, { State.reset with params := { paramsOfSpec with shiftSource := .vy } }, rfl⟩

theorem witness_AddAddressRegSumOrOverflow :
    (0xFFFF : Nat) = (stI 0 0xFF00 [(0, 0xFF)]).I.toNat + ((stI 0 0xFF00 [(0, 0xFF)]).readV 0).toNat ∧
    (0x10000 : Nat) = (stI 0 0xFFFF [(0, 1)]).I.toNat + ((stI 0 0xFFFF [(0, 1)]).readV 0).toNat ∧
    (stI 0 0xFFFF [(0, 1)]).params.iOverflow = .fault ∧
    ∃ s : State, (0x10000 : Nat) = s.I.toNat + (s.readV 0).toNat ∧ s.params.iOverflow = .wrap16 :=
  ⟨by decide, by decide, by decide,
    { stI 0 0xFFFF [(0, 1)] with params := { paramsOfSpec with iOverflow := .wrap16 } }, by decide, rfl⟩

theorem witness_StoreBCDWritesThreeDigits :
    (stI 0 0xFFD []).I.toNat + 2 < 4096 ∧ 4096 ≤ (stI 0 0xFFE []).I.toNat + 2 := by decide

theorem witness_StoreAndLoadRegisters :
    (stI 0 0xFF0 []).I.toNat + (15 : Reg).val < 4096 ∧ 4096 ≤ (stI 0 0xFF1 []).I.toNat + (15 : Reg).val ∧
      ∀ p : LdstIncrement, ∃ s : State, s.params.ldstIncrement = p ∧ s.I.toNat + (15 : Reg).val < 4096 :=
  ⟨by decide, by decide, fun p =>
    ⟨{ stI 0 0xFF0 [] with params := { paramsOfSpec with ldstIncrement := p } }, rfl, by
      show ((stI 0 0xFF0 []).I.toNat + 15 < 4096); decide⟩⟩

theorem witness_LoadAfterStoreRestoresRegisters :
    ∃ s t u v : State, s.params.ldstIncrement = .none ∧ exec (.storeRegisters 2) s = .next t ∧
      u.M = t.M ∧ u.I = t.I ∧ u.params = t.params ∧ exec (.loadRegisters 2) u = .next v ∧ (1 : Reg) ≤ 2 :=
  ⟨stI 0 0x300 [(1, 7)], _, _, _, rfl, rfl, rfl, rfl, rfl, rfl, by decide⟩

theorem witness_ReadAfterWrite : 4095 < 4096 ∧ 4096 ≤ 4096 := by decide

theorem witness_CanonicalMemoriesAreEqual :
    ∃ m m' : Memory, m.wf ∧ m'.wf ∧ ∀ a < 4096, m.get a = m'.get a :=
  ⟨[(0, 1), (4095, 2)], [(0, 1), (4095, 2)], by decide, by decide, fun _ _ => rfl⟩

theorem witness_DrawSpriteAsksTheDisplay :
    ((0 : Count).val = 0 ∨ (stI 0 0xFFFF []).I.toNat + (0 : Count).val ≤ 4096) ∧
      ((15 : Count).val = 0 ∨ (stI 0 0xFF1 []).I.toNat + (15 : Count).val ≤ 4096) ∧
      (15 : Count).val ≠ 0 ∧ 4096 < (stI 0 0xFF2 []).I.toNat + (15 : Count).val := by decide

theorem witness_KeySkipsReadTheKeypad :
    (5 : Key).val = ((stK 0 [5] [(0, 0x15)]).readV 0).toNat % 16 ∧ (stK 0 [5] [(0, 0x15)]).key 5 = true := by decide

theorem witness_AwaitKeyPressTakesTheLowestKey :
    (stK 0 [15] []).key 15 = true ∧ (∀ j : Key, j < 15 → (stK 0 [15] []).key j = false) ∧
      ∀ k : Key, (stK 0 [] []).key k = false := by decide

theorem witness_TimerSetIsTickedInTheSameStep :
    (st 0xF015 []).PC.toNat < 4095 ∧ (st 0xF015 []).params.tickMode = .perStep ∧
      fetchedInstr (st 0xF015 []) = .setDelayTimer 0 ∧ fetchedInstr (st 0xF018 []) = .setSoundTimer 0 ∧
      fetchedInstr (st 0xF007 []) = .readDelayTimer 0 := by decide

theorem witness_AwaitKeyPressSpinsUntilAKey :
    (st 0xF20A []).PC.toNat < 4095 ∧ fetchedInstr (st 0xF20A []) = .awaitKeyPress 2 ∧
      (∀ j : Key, (st 0xF20A []).key j = false) ∧ (st 0xF20A []).params.tickMode = .perStep ∧
      ∃ s : State, s.PC.toNat < 4095 ∧ fetchedInstr s = .awaitKeyPress 2 ∧ (∀ j : Key, s.key j = false) ∧
        s.params.tickMode = .external :=
  ⟨by decide, by decide, by decide, by decide,
    { st 0xF20A [] with params := { paramsOfSpec with tickMode := .external } }, by decide, by decide, by decide, rfl⟩

theorem witness_SelfJumpIsAFixedPoint :
    (st 0x1200 []).PC.toNat < 4095 ∧ fetchedInstr (st 0x1200 []) = .jump ((st 0x1200 []).PC.setWidth 12) := by decide

theorem witness_ErrorsAreExactlyTheTabulatedOnes :
    tabulatedError (.call 0) (stD 0 15) = none ∧
      tabulatedError (.call 0) (stD 0 16) = some (.stackOverflow 0x200) := by decide

theorem witness_StepCompletesExactlyWhereSafe : StepSafe (st 0x00E0 []) ∧ ¬ StepSafe (State.reset.setPC 4095) :=
  ⟨⟨by decide, by decide⟩, fun h => absurd h.1 (by decide)⟩

theorem witness_OnlyAddressInstructionsWriteI :
    ∃ t, exec (.setAddressReg 0x300) State.reset = .next t ∧ t.I ≠ State.reset.I :=
  ⟨_, rfl, by decide⟩

theorem witness_OnlyNamedInstructionsWriteVF :
    ∃ t, exec (.addReg 0 1) (st 0 [(0, 0xFF), (1, 1)]) = .next t ∧
      t.readV Reg.VF ≠ (st 0 [(0, 0xFF), (1, 1)]).readV Reg.VF :=
  ⟨_, rfl, by decide⟩

theorem witness_OnlyStoresWriteMemory :
    ∃ t, exec (.storeRegisters 0) (stI 0 0xFFF [(0, 7)]) = .next t ∧ t.M.get 0xFFF ≠ (stI 0 0xFFF [(0, 7)]).M.get 0xFFF :=
  ⟨_, rfl, by decide⟩

theorem witness_WhoWritesStackTimersAndKeypad :
    (∃ t, exec (.call 0x300) State.reset = .next t ∧ t.stack ≠ State.reset.stack ∧ t.depth ≠ State.reset.depth) ∧
    (∃ t, exec (.setDelayTimer 0) (st 0 [(0, 5)]) = .next t ∧ t.DT ≠ (st 0 [(0, 5)]).DT) ∧
    (∃ t, exec (.setSoundTimer 0) (st 0 [(0, 5)]) = .next t ∧ t.ST ≠ (st 0 [(0, 5)]).ST) :=
  ⟨⟨_, rfl, by decide, by decide⟩, ⟨_, rfl, by decide⟩, ⟨_, rfl, by decide⟩⟩

theorem witness_StepEmitsAtMostOneRequest : ∃ t, step (st 0x00E0 []) = .next t ∧ t.events = [.clear] :=
  ⟨_, rfl, by decide⟩

theorem witness_KeypadIsSeenOnlyByKeyInstructions :
    ∀ x, Instr.clearScreen ≠ .keyIsPressed x ∧ Instr.clearScreen ≠ .keyIsntPressed x ∧
      Instr.clearScreen ≠ .awaitKeyPress x := by decide

theorem witness_StepKeepsInvariant : ∃ t, Inv (st 0x2FFE []) ∧ step (st 0x2FFE []) = .next t :=
  ⟨_, ⟨by decide, by decide, by decide⟩, rfl⟩

theorem witness_RunsKeepInvariant :
    ∃ t, Inv (st 0x1200 []) ∧
      runActions [.step, .host (.setKeys (Vector.replicate 16 true)), .step] (st 0x1200 []) = .next t :=
  ⟨_, ⟨by decide, by decide, by decide⟩, rfl⟩

theorem witness_ConstructedMemoryHoldsTheROM : 0x1FF < 0x200 ∧ 0x200 ≤ 4095 ∧ 4095 < 4096 := by decide

theorem witness_ConstructedMachineStartsAtTheROM :
    ∃ s : State, s = construct { paramsOfSpec with tickMode := .external } [0xF0] [0x6A, 0x05] := ⟨_, rfl⟩

theorem witness_HostActionsChangeOnlyKeysAndTimers :
    State.reset.params.tickMode = .perStep ∧ ∃ s : State, s.params.tickMode = .external :=
  ⟨by decide, { State.reset with params := { paramsOfSpec with tickMode := .external } }, rfl⟩

end Sys2Proof.Tests
end

section
/-! PROOFS. What one instruction can do, said once: what each instruction that can fail does where it succeeds, and which
parts of the state every instruction may write (`exec_frame`). -/

namespace Sys2Proof.Machine

/-! ### Frames of the remaining updates -/

theorem frame_setPC (s : State) (a : Word) : Frame (· = .PC) s (s.setPC a) := by
  intro f hf
  cases f with
  | PC => exact absurd rfl hf
  | _ => rfl

theorem frame_writeI (s : State) (v : Word) : Frame (· = .I) s (s.writeI v) := by
  intro f hf
  cases f with
  | I => exact absurd rfl hf
  | _ => rfl

theorem frame_writeDT (s : State) (v : Byte) : Frame (· = .DT) s (s.writeDT v) := by
  intro f hf
  cases f with
  | DT => exact absurd rfl hf
  | _ => rfl

theorem frame_writeST (s : State) (v : Byte) : Frame (· = .ST) s (s.writeST v) := by
  intro f hf
  cases f with
  | ST => exact absurd rfl hf
  | _ => rfl

theorem frame_emit (s : State) (e : DisplayRequest) : Frame (· = .events) s (s.emit e) := by
  intro f hf
  cases f with
  | events => exact absurd rfl hf
  | _ => rfl

theorem frame_countDraw (s : State) : Frame (· = .draws) s s.countDraw := by
  intro f hf
  cases f with
  | draws => exact absurd rfl hf
  | _ => rfl

/-- The frame of a load of the first registers: those the bytes reach. -/
theorem frame_loadV (s : State) (bs : List Byte) :
    Frame (fun f => ∃ r : Reg, r.val < bs.length ∧ f = .V r) s (s.loadV bs) := by
  intro f hf
  cases f with
  | V r =>
    have hr : bs.length ≤ r.val := Nat.le_of_not_lt fun h => hf ⟨r, h, rfl⟩
    simp [Field.same, hr]
  | _ => simp [Field.same]

/-- The frame of a new memory: the bytes that read otherwise. -/
theorem frame_memory (s : State) (m : Memory) :
    Frame (fun f => ∃ a, m.get a ≠ s.M.get a ∧ f = .mem a) s { s with M := m } := by
  intro f hf
  cases f with
  | mem a => exact not_not.1 fun h => hf ⟨a, h, rfl⟩
  | _ => rfl

/-- The frame of a new value of `I` which may be the old one. -/
theorem frame_writeI_of_ne (s : State) (v : Word) : Frame (fun f => v ≠ s.I ∧ f = .I) s (s.writeI v) := by
  by_cases hv : v = s.I
  · subst hv
    exact Frame.refl _ s
  · exact (frame_writeI s v).mono fun f hf => ⟨hv, hf⟩

theorem Frame.thenAdvance {w : Field → Prop} {s t : State} (h : Frame w s t) (hPC : w .PC) : Frame w s t.advance :=
  h.trans ((frame_advance t).mono (by rintro f rfl; exact hPC))

/-! ### What each instruction that can fail does where it succeeds -/

theorem addToI_eq_ok {s t : State} {k : Nat} (h : addToI s k = .ok t) : ∃ v : Word, t = s.writeI v := by
  by_cases hk : s.I.toNat + k ≤ 0xFFFF
  · rw [addToI_fits s k hk] at h
    exact ⟨_, (Except.ok.inj h).symm⟩
  · cases hp : s.params.iOverflow with
    | fault =>
      rw [addToI_fault s k (by omega) hp] at h
      exact nomatch h
    | wrap16 =>
      rw [addToI_wrap s k (by omega) hp] at h
      exact ⟨_, (Except.ok.inj h).symm⟩

theorem applyLdstIncrement_eq_ok {s t : State} {x : Reg} (h : applyLdstIncrement s x = .ok t) :
    ∃ v : Word, t = s.writeI v ∧ (s.params.ldstIncrement = .none → v = s.I) := by
  unfold applyLdstIncrement at h
  cases hp : s.params.ldstIncrement <;> simp only [hp] at h
  case none =>
    cases h
    exact ⟨s.I, rfl, fun _ => rfl⟩
  all_goals
    obtain ⟨v, rfl⟩ := addToI_eq_ok h
    exact ⟨v, rfl, nofun⟩

theorem execReturnFromSub_eq_next {s t : State} (h : execReturnFromSub s = .next t) :
    ∃ _ : s.depth.val ≠ 0,
      t = { s with depth := ⟨s.depth.val - 1, by omega⟩ }.setPC (s.stack[s.depth.val - 1]'(by omega)) := by
  unfold execReturnFromSub at h
  by_cases hd : s.depth.val = 0
  · rw [pop_empty s hd] at h
    exact nomatch h
  · rw [pop_ok s hd] at h
    exact ⟨hd, (Host.Outcome.next.inj h).symm⟩

theorem execCall_eq_next {nnn : Lit12} {s t : State} (h : execCall nnn s = .next t) :
    ∃ hd : s.depth.val < 16, t = { s with
      stack := s.stack.set s.depth.val (s.PC + 2), depth := ⟨s.depth.val + 1, by omega⟩ }.setPC (zext16 nnn) := by
  unfold execCall at h
  by_cases hd : s.depth.val < 16
  · rw [push_ok s _ hd] at h
    exact ⟨hd, (Host.Outcome.next.inj h).symm⟩
  · rw [push_full s _ (by omega)] at h
    exact nomatch h

theorem execDrawSprite_eq_next {x y : Reg} {n : Count} {s t : State} (h : execDrawSprite x y n s = .next t) :
    ∃ (bytes : List Byte) (c : Bool), readBytes s (s.addrI 0) n.val = .ok bytes ∧
      t = ((s.emit (.draw (s.readV x) (s.readV y) bytes)).writeV Reg.VF (flagByte c)).countDraw.advance := by
  unfold execDrawSprite drawSpriteWith at h
  split at h
  · exact nomatch h
  · exact ⟨_, _, ‹_›, (Host.Outcome.next.inj h).symm⟩

theorem execAwaitKeyPress_eq_next {x : Reg} {s t : State} (h : execAwaitKeyPress x s = .next t) :
    (∃ k, s.lowestKey = some k ∧ t = (s.writeV x (BitVec.ofNat 8 k.val)).advance) ∨
      (s.lowestKey = none ∧ t = s) := by
  unfold execAwaitKeyPress at h
  cases hk : s.lowestKey with
  | none =>
    rw [hk] at h
    exact .inr ⟨rfl, (Host.Outcome.next.inj h).symm⟩
  | some k =>
    rw [hk] at h
    exact .inl ⟨k, rfl, (Host.Outcome.next.inj h).symm⟩

theorem execAddAddressReg_eq_next {x : Reg} {s t : State} (h : execAddAddressReg x s = .next t) :
    ∃ v : Word, t = (s.writeI v).advance := by
  unfold execAddAddressReg at h
  split at h
  · exact nomatch h
  · obtain ⟨v, rfl⟩ := addToI_eq_ok ‹_›
    exact ⟨v, (Host.Outcome.next.inj h).symm⟩

theorem execStoreBCDAtAddress_eq_next {x : Reg} {s t : State} (h : execStoreBCDAtAddress x s = .next t) :
    ∃ u, writeBytes s s.I.toNat (bcdDigits (s.readV x)) = .ok u ∧ t = u.advance := by
  unfold execStoreBCDAtAddress at h
  split at h
  · exact nomatch h
  · exact ⟨_, ‹_›, (Host.Outcome.next.inj h).symm⟩

theorem execStoreRegisters_eq_next {x : Reg} {s t : State} (h : execStoreRegisters x s = .next t) :
    ∃ u v, writeBytes s s.I.toNat (s.valuesUpTo x) = .ok u ∧ t = (u.writeI v).advance ∧
      (u.params.ldstIncrement = .none → v = u.I) := by
  unfold execStoreRegisters at h
  split at h
  · exact nomatch h
  · split at h
    · exact nomatch h
    · obtain ⟨v, rfl, hv⟩ := applyLdstIncrement_eq_ok ‹_›
      exact ⟨_, v, ‹_›, (Host.Outcome.next.inj h).symm, hv⟩

theorem execLoadRegisters_eq_next {x : Reg} {s t : State} (h : execLoadRegisters x s = .next t) :
    ∃ bs v, readBytes s s.I.toNat (x.val + 1) = .ok bs ∧ t = ((s.loadV bs).writeI v).advance ∧
      (s.params.ldstIncrement = .none → v = s.I) := by
  unfold execLoadRegisters at h
  split at h
  · exact nomatch h
  · split at h
    · exact nomatch h
    · obtain ⟨v, rfl, hv⟩ := applyLdstIncrement_eq_ok ‹_›
      exact ⟨_, v, ‹_›, (Host.Outcome.next.inj h).symm, hv⟩

/-- The bytes a `writeBytes` that succeeded may have changed. -/
theorem frame_writeBytes {s t : State} {a : Nat} {bs : List Byte} (h : writeBytes s a bs = .ok t) :
    Frame (fun f => ∃ b, a ≤ b ∧ b < a + bs.length ∧ f = .mem b) s t := by
  obtain ⟨-, m, rfl, -, hget⟩ := writeBytes_eq_ok h
  refine (frame_memory s m).mono ?_
  rintro f ⟨b, hb, rfl⟩
  have hr : a ≤ b ∧ b < a + bs.length := not_not.1 fun hn => hb (by rw [hget, if_neg hn])
  exact ⟨b, hr.1, hr.2, rfl⟩

theorem writeBytes_PC {s t : State} {a : Nat} {bs : List Byte} (h : writeBytes s a bs = .ok t) : t.PC = s.PC :=
  frame_writeBytes h .PC (by simp)

theorem bcdDigits_length (v : Byte) : (bcdDigits v).length = 3 := rfl

/-! ### The frame of every instruction -/

/-- The parts of the state an instruction may write (each rule's own list of effects: R130 to R137, R150 to R170, R180 to
R187, R200 to R207). -/
@[simp] def mayWrite : Instr → State → Field → Prop
  | .sysCall _, _, _ | .unknown _, _, _ => False
  | .jump _, _, f | .jumpIndirect _, _, f | .skipEquals _ _, _, f | .skipNotEquals _ _, _, f
  | .skipRegEquals _ _, _, f | .skipRegNotEquals _ _, _, f | .keyIsPressed _, _, f | .keyIsntPressed _, _, f => f = .PC
  | .returnFromSub, _, f => f = .depth ∨ f = .PC
  | .call _, s, f => (∃ k, k.val = s.depth.val ∧ f = .stack k) ∨ f = .depth ∨ f = .PC
  | .setReg x _, _, f | .addConst x _, _, f | .copyReg x _, _, f | .orReg x _, _, f | .andReg x _, _, f
  | .xorReg x _, _, f | .readDelayTimer x, _, f | .awaitKeyPress x, _, f => f = .V x ∨ f = .PC
  | .addReg x _, _, f | .subReg x _, _, f | .subRegRev x _, _, f | .rightShiftReg x _, _, f
  | .leftShiftReg x _, _, f => f = .V x ∨ f = .V Reg.VF ∨ f = .PC
  | .randomNumber x _, _, f => f = .V x ∨ f = .draws ∨ f = .PC
  | .clearScreen, _, f => f = .events ∨ f = .PC
  | .drawSprite _ _ _, _, f => f = .events ∨ f = .V Reg.VF ∨ f = .draws ∨ f = .PC
  | .setDelayTimer _, _, f => f = .DT ∨ f = .PC
  | .setSoundTimer _, _, f => f = .ST ∨ f = .PC
  | .setAddressReg _, _, f | .addAddressReg _, _, f | .addressKeySprite _, _, f => f = .I ∨ f = .PC
  | .storeBCDAtAddress _, s, f => (∃ a, s.I.toNat ≤ a ∧ a ≤ s.I.toNat + 2 ∧ f = .mem a) ∨ f = .PC
  | .storeRegisters x, s, f =>
    (∃ a, s.I.toNat ≤ a ∧ a ≤ s.I.toNat + x.val ∧ f = .mem a) ∨ (s.params.ldstIncrement ≠ .none ∧ f = .I) ∨ f = .PC
  | .loadRegisters x, s, f => (∃ r ≤ x, f = .V r) ∨ (s.params.ldstIncrement ≠ .none ∧ f = .I) ∨ f = .PC

theorem execStoreRegisters_frame {x : Reg} {s t : State} (h : execStoreRegisters x s = .next t) :
    Frame (mayWrite (.storeRegisters x) s) s t := by
  obtain ⟨u, v, hu, rfl, hv⟩ := execStoreRegisters_eq_next h
  have hf := frame_writeBytes hu
  have hp : u.params = s.params := hf .params (by simp)
  refine ((hf.mono ?_).trans ((frame_writeI_of_ne u v).mono ?_)).thenAdvance (.inr (.inr rfl))
  · rintro f ⟨a, h1, h2, rfl⟩
    rw [valuesUpTo_length] at h2
    exact .inl ⟨a, h1, by omega, rfl⟩
  · rintro f ⟨hne, rfl⟩
    exact .inr (.inl ⟨fun hn => hne (hv (hp ▸ hn)), rfl⟩)

theorem execLoadRegisters_frame {x : Reg} {s t : State} (h : execLoadRegisters x s = .next t) :
    Frame (mayWrite (.loadRegisters x) s) s t := by
  obtain ⟨bs, v, hbs, rfl, hv⟩ := execLoadRegisters_eq_next h
  have hlen : bs.length = x.val + 1 := by simp [(readBytes_eq_ok hbs).2]
  refine (((frame_loadV s bs).mono ?_).trans ((frame_writeI_of_ne _ v).mono ?_)).thenAdvance (.inr (.inr rfl))
  · rintro f ⟨r, hr, rfl⟩
    exact .inl ⟨r, Fin.le_def.2 (by omega), rfl⟩
  · rintro f ⟨hne, rfl⟩
    exact .inr (.inl ⟨fun hn => hne (hv hn), rfl⟩)

/-- An instruction changes nothing but the parts it may write. -/
theorem exec_frame {i : Instr} {s t : State} (h : exec i s = .next t) : Frame (mayWrite i s) s t := by
  cases i with
  | sysCall | unknown => cases h
  | jump | jumpIndirect | skipEquals | skipNotEquals | skipRegEquals | skipRegNotEquals | keyIsPressed
  | keyIsntPressed =>
    cases h
    exact frame_setPC _ _
  | returnFromSub =>
    obtain ⟨hd, rfl⟩ := execReturnFromSub_eq_next h
    intro f hf
    cases f with
    | PC | depth => simp at hf
    | _ => rfl
  | call nnn =>
    obtain ⟨hd, rfl⟩ := execCall_eq_next h
    intro f hf
    cases f with
    | PC | depth => simp at hf
    | stack k =>
      have hk : s.depth.val ≠ k.val := fun e => hf (.inl ⟨k, e.symm, rfl⟩)
      exact Vector.getElem_set_ne hd _ hk
    | _ => rfl
  | setReg | addConst | copyReg | orReg | andReg | xorReg | readDelayTimer =>
    cases h
    exact ((frame_writeV _ _ _).mono (by simp)).thenAdvance (by simp)
  | awaitKeyPress x =>
    obtain ⟨k, -, rfl⟩ | ⟨-, rfl⟩ := execAwaitKeyPress_eq_next h
    · exact ((frame_writeV _ _ _).mono (by simp)).thenAdvance (by simp)
    · exact Frame.refl _ _
  | addReg | subReg | subRegRev | rightShiftReg | leftShiftReg =>
    cases h
    exact ((frame_writeFlagged _ _ _ _).mono (by simp)).thenAdvance (by simp)
  | randomNumber x kk =>
    cases h
    exact (((frame_writeV _ _ _).mono (by simp)).trans ((frame_countDraw _).mono (by simp))).thenAdvance (by simp)
  | clearScreen =>
    cases h
    exact ((frame_emit _ _).mono (by simp)).thenAdvance (by simp)
  | drawSprite x y n =>
    obtain ⟨bytes, c, -, rfl⟩ := execDrawSprite_eq_next h
    exact ((((frame_emit _ _).mono (by simp)).trans ((frame_writeV _ _ _).mono (by simp))).trans
      ((frame_countDraw _).mono (by simp))).thenAdvance (by simp)
  | setDelayTimer =>
    cases h
    exact ((frame_writeDT _ _).mono (by simp)).thenAdvance (by simp)
  | setSoundTimer =>
    cases h
    exact ((frame_writeST _ _).mono (by simp)).thenAdvance (by simp)
  | setAddressReg | addressKeySprite =>
    cases h
    exact ((frame_writeI _ _).mono (by simp)).thenAdvance (by simp)
  | addAddressReg =>
    obtain ⟨v, rfl⟩ := execAddAddressReg_eq_next h
    exact ((frame_writeI _ _).mono (by simp)).thenAdvance (by simp)
  | storeBCDAtAddress x =>
    obtain ⟨u, hu, rfl⟩ := execStoreBCDAtAddress_eq_next h
    refine ((frame_writeBytes hu).mono ?_).thenAdvance (by simp)
    rintro f ⟨a, h1, h2, rfl⟩
    rw [bcdDigits_length] at h2
    exact .inl ⟨a, h1, by omega, rfl⟩
  | storeRegisters => exact execStoreRegisters_frame h
  | loadRegisters => exact execLoadRegisters_frame h

/-- A part that holds another value afterwards is one the instruction may write. -/
theorem mayWrite_of_changed {i : Instr} {s t : State} {f : Field} (h : exec i s = .next t) (hf : ¬ f.same s t) :
    mayWrite i s f :=
  not_not.1 fun hw => hf (exec_frame h f hw)

end Sys2Proof.Machine
end

section
/-! PROOFS. Who writes `I` and `VF` (R30, R23). -/

namespace Sys2Proof.Machine

theorem mayWrite_I_cases {i : Instr} {s : State} (h : mayWrite i s .I) :
    (∃ nnn, i = .setAddressReg nnn) ∨ (∃ x, i = .addAddressReg x) ∨ (∃ x, i = .addressKeySprite x) ∨
      (s.params.ldstIncrement ≠ .none ∧ ∃ x, i = .storeRegisters x ∨ i = .loadRegisters x) := by
  cases i with
  | setAddressReg | addAddressReg | addressKeySprite => simp
  | storeRegisters | loadRegisters => simpa using h
  | _ => simp at h

/-- Settles O45: `I` is among the parts only these instructions may write. -/
theorem onlyAddressInstructionsWriteI : Obligations.OnlyAddressInstructionsWriteI := by
  intro i s t h hI
  exact mayWrite_I_cases (mayWrite_of_changed (f := .I) h hI)

/-- Settles O46: `VF` is among the parts only these instructions may write. -/
theorem onlyNamedInstructionsWriteVF : Obligations.OnlyNamedInstructionsWriteVF := by
  intro i s t h hVF
  have hw : mayWrite i s (.V Reg.VF) := mayWrite_of_changed h hVF
  cases i with
  | addReg | subReg | subRegRev | rightShiftReg | leftShiftReg | drawSprite => simp
  | setReg x | addConst x | randomNumber x | copyReg x | orReg x | andReg x | xorReg x | readDelayTimer x
  | awaitKeyPress x =>
    obtain rfl : Reg.VF = x := by simpa using hw
    simp
  | loadRegisters x =>
    have hx : Reg.VF ≤ x := by simpa using hw
    obtain rfl : x = Reg.VF := le_antisymm (Fin.le_last x) hx
    simp
  | _ => simp at hw

end Sys2Proof.Machine
end

section
/-! PROOFS. The invariant is kept by every instruction, every step and every host action, and so by every run (R26, R33,
R120, R255). -/

namespace Sys2Proof.Machine

/-! ### Memory -/

/-- Where an instruction changes memory at all, it does so by `writeBytes`, which keeps the canonical form. -/
theorem exec_keeps_wf {i : Instr} {s t : State} (h : exec i s = .next t) (hs : s.M.wf) : t.M.wf := by
  cases i with
  | storeBCDAtAddress =>
    obtain ⟨u, hu, rfl⟩ := execStoreBCDAtAddress_eq_next h
    rw [State.advance_M]
    exact writeBytes_wf hu hs
  | storeRegisters =>
    obtain ⟨u, v, hu, rfl, -⟩ := execStoreRegisters_eq_next h
    rw [State.advance_M, State.writeI_M]
    exact writeBytes_wf hu hs
  | returnFromSub =>
    obtain ⟨hd, rfl⟩ := execReturnFromSub_eq_next h
    exact hs
  | call =>
    obtain ⟨hd, rfl⟩ := execCall_eq_next h
    exact hs
  | awaitKeyPress =>
    obtain ⟨k, -, rfl⟩ | ⟨-, rfl⟩ := execAwaitKeyPress_eq_next h
    · exact hs
    · exact hs
  | drawSprite =>
    obtain ⟨bytes, c, -, rfl⟩ := execDrawSprite_eq_next h
    exact hs
  | addAddressReg =>
    obtain ⟨v, rfl⟩ := execAddAddressReg_eq_next h
    exact hs
  | loadRegisters =>
    obtain ⟨bs, v, -, rfl, -⟩ := execLoadRegisters_eq_next h
    exact hs
  | addReg | subReg | subRegRev | rightShiftReg | leftShiftReg =>
    cases h
    simpa only [State.advance_M, writeFlagged_M] using hs
  | sysCall | unknown => cases h
  | _ =>
    cases h
    exact hs

/-! ### The program counter -/

/-- The places an instruction can take `PC` to (R116, R130 to R137, R205). -/
inductive PCTarget (s : State) : Word → Prop
  | stay : PCTarget s s.PC
  | next : PCTarget s (s.PC + 2)
  | skip : PCTarget s (s.PC + 4)
  | literal (nnn : Lit12) : PCTarget s (zext16 nnn)
  | indexed (nnn : Lit12) (v : Byte) : PCTarget s (zext16 nnn + zext16 v)
  | popped (k : Fin 16) (hk : k.val < s.depth.val) : PCTarget s s.stack[k.val]

theorem exec_PC_target {i : Instr} {s t : State} (h : exec i s = .next t) : PCTarget s t.PC := by
  cases i with
  | skipEquals | skipNotEquals | skipRegEquals | skipRegNotEquals | keyIsPressed | keyIsntPressed =>
    cases h
    rw [State.skipIf_PC]
    split
    · exact .skip
    · exact .next
  | jump nnn =>
    cases h
    exact .literal nnn
  | call nnn =>
    obtain ⟨hd, rfl⟩ := execCall_eq_next h
    exact .literal nnn
  | jumpIndirect nnn =>
    cases h
    exact .indexed nnn _
  | returnFromSub =>
    obtain ⟨hd, rfl⟩ := execReturnFromSub_eq_next h
    exact .popped ⟨s.depth.val - 1, by omega⟩ (Nat.sub_one_lt hd)
  | awaitKeyPress =>
    obtain ⟨k, -, rfl⟩ | ⟨-, rfl⟩ := execAwaitKeyPress_eq_next h
    · exact .next
    · exact .stay
  | drawSprite =>
    obtain ⟨bytes, c, -, rfl⟩ := execDrawSprite_eq_next h
    exact .next
  | addAddressReg =>
    obtain ⟨v, rfl⟩ := execAddAddressReg_eq_next h
    exact .next
  | storeBCDAtAddress =>
    obtain ⟨u, hu, rfl⟩ := execStoreBCDAtAddress_eq_next h
    rw [State.advance_PC, writeBytes_PC hu]
    exact .next
  | storeRegisters =>
    obtain ⟨u, v, hu, rfl, -⟩ := execStoreRegisters_eq_next h
    rw [State.advance_PC, State.writeI_PC, writeBytes_PC hu]
    exact .next
  | loadRegisters =>
    obtain ⟨bs, v, -, rfl, -⟩ := execLoadRegisters_eq_next h
    exact .next
  | addReg | subReg | subRegRev | rightShiftReg | leftShiftReg =>
    cases h
    rw [State.advance_PC, writeFlagged_PC]
    exact .next
  | sysCall | unknown => cases h
  | _ =>
    cases h
    exact .next

theorem zext16_toNat {k : Nat} (v : BitVec k) (hk : k ≤ 16) : (zext16 v).toNat = v.toNat :=
  BitVec.toNat_setWidth_of_le hk

theorem toNat_add_le (a b : Word) : (a + b).toNat ≤ a.toNat + b.toNat := by
  rw [BitVec.toNat_add]
  exact Nat.mod_le _ _

/-- From a fetch in bounds every target is in the range of R26, the largest being that of JumpIndirect. -/
theorem PCTarget.toNat_le {s : State} {a : Word} (ha : PCTarget s a) (hs : Inv s) (hPC : s.PC.toNat < 4095) :
    a.toNat ≤ 0x10FE := by
  obtain ⟨-, -, hstack⟩ := hs
  cases ha with
  | stay => omega
  | next =>
    have hsum : (s.PC + 2).toNat ≤ s.PC.toNat + 2 := toNat_add_le s.PC 2
    omega
  | skip =>
    have hsum : (s.PC + 4).toNat ≤ s.PC.toNat + 4 := toNat_add_le s.PC 4
    omega
  | literal nnn =>
    have hn := nnn.isLt
    rw [zext16_toNat nnn (by omega)]
    omega
  | indexed nnn v =>
    have hn := nnn.isLt
    have hv := v.isLt
    have hsum := toNat_add_le (zext16 nnn) (zext16 v)
    rw [zext16_toNat nnn (by omega), zext16_toNat v (by omega)] at hsum
    omega
  | popped k hk =>
    have hent := hstack k hk
    omega

/-! ### The stack -/

/-- A live entry after an instruction was live before it, or is the return address a call pushed (R34, R35). -/
theorem exec_live_entry {i : Instr} {s t : State} (h : exec i s = .next t) (k : Fin 16) (hk : k.val < t.depth.val) :
    (k.val < s.depth.val ∧ t.stack[k.val] = s.stack[k.val]) ∨ t.stack[k.val] = s.PC + 2 := by
  cases i with
  | call nnn =>
    obtain ⟨hd, rfl⟩ := execCall_eq_next h
    simp only [State.setPC_depth, State.setPC_stack, Vector.getElem_set] at hk ⊢
    split
    · exact .inr rfl
    · exact .inl ⟨by omega, rfl⟩
  | returnFromSub =>
    obtain ⟨hd, rfl⟩ := execReturnFromSub_eq_next h
    simp only [State.setPC_depth] at hk
    exact .inl ⟨by omega, rfl⟩
  | _ =>
    have hst : t.stack[k.val] = s.stack[k.val] := exec_frame h (.stack k) (by simp)
    have hd : t.depth = s.depth := exec_frame h .depth (by simp)
    exact .inl ⟨hd ▸ hk, hst⟩

theorem exec_return_address_le {i : Instr} {s t : State} (h : exec i s = .next t) (hs : Inv s)
    (hPC : s.PC.toNat < 4095) (k : Fin 16) (hk : k.val < t.depth.val) : (t.stack[k.val]).toNat ≤ 4096 := by
  obtain ⟨-, -, hstack⟩ := hs
  obtain ⟨hlive, e⟩ | e := exec_live_entry h k hk <;> rw [e]
  · exact hstack k hlive
  · have hsum : (s.PC + 2).toNat ≤ s.PC.toNat + 2 := toNat_add_le s.PC 2
    omega

/-! ### The invariant -/

theorem exec_keeps_inv {i : Instr} {s t : State} (h : exec i s = .next t) (hs : Inv s) (hPC : s.PC.toNat < 4095) :
    Inv t :=
  ⟨exec_keeps_wf h hs.1, (exec_PC_target h).toNat_le hs hPC, exec_return_address_le h hs hPC⟩

theorem inv_beginStep {s : State} : Inv s.beginStep ↔ Inv s := Iff.rfl

theorem inv_endStep {s : State} : Inv s.endStep ↔ Inv s := by
  simp [Inv]

theorem hostAct_keeps_inv {a : HostAction} {s t : State} (h : hostAct a s = some t) (hs : Inv s) : Inv t := by
  cases a with
  | setKeys keys =>
    cases h
    exact hs
  | tick =>
    cases hm : s.params.tickMode with
    | perStep => simp [hostAct, hm] at h
    | external =>
      simp only [hostAct, hm] at h
      cases h
      exact hs

/-- Settles O52: the instruction keeps the invariant, and what the step does around it touches none of its parts. -/
theorem stepKeepsInvariant : Obligations.StepKeepsInvariant := by
  intro s t hs h
  obtain ⟨hPC, u, hu, rfl⟩ := step_eq_next.1 h
  exact inv_endStep.2 (exec_keeps_inv hu (inv_beginStep.2 hs) hPC)

/-- Settles O53, by induction on the run's actions. -/
theorem runsKeepInvariant : Obligations.RunsKeepInvariant := by
  intro as
  induction as with
  | nil =>
    intro s t hs h
    cases h
    exact hs
  | cons a as ih =>
    intro s t hs h
    cases a with
    | step =>
      unfold runActions at h
      cases hstep : step s with
      | next u =>
        rw [hstep] at h
        exact ih u t (stepKeepsInvariant s u hs hstep) h
      | fault f => rw [hstep] at h; exact nomatch h
      | refused r => rw [hstep] at h; exact nomatch h
    | host a =>
      refine ih _ t ?_ h
      cases hact : hostAct a s with
      | none => exact hs
      | some u => exact hostAct_keeps_inv hact hs

end Sys2Proof.Machine
end

section
/-! PROOFS. No instruction reads or writes the cycle count, and only three read the keypad (R37, R243). Both are a case of
one fact: a change to those two parts commutes with execution (`exec_mapUnseen`). -/

namespace Sys2Proof.Machine

/-- `s` with the keypad and the cycle count changed, the two parts that no shared operation reads or writes. -/
def State.mapUnseen (keys : Vector Bool 16 → Vector Bool 16) (count : Nat → Nat) (s : State) : State :=
  { s with KEY := keys s.KEY, cycles := count s.cycles }

section
variable (keys : Vector Bool 16 → Vector Bool 16) (count : Nat → Nat) (s : State)

@[simp] theorem State.mapUnseen_PC : (s.mapUnseen keys count).PC = s.PC := rfl
@[simp] theorem State.mapUnseen_params : (s.mapUnseen keys count).params = s.params := rfl
@[simp] theorem State.readV_mapUnseen (x : Reg) : (s.mapUnseen keys count).readV x = s.readV x := rfl
@[simp] theorem State.addrI_mapUnseen (k : Nat) : (s.mapUnseen keys count).addrI k = s.addrI k := rfl
@[simp] theorem State.valuesUpTo_mapUnseen (x : Reg) : (s.mapUnseen keys count).valuesUpTo x = s.valuesUpTo x := rfl
@[simp] theorem State.lowestKey_mapUnseen_id : (s.mapUnseen id count).lowestKey = s.lowestKey := rfl

theorem State.loadV_mapUnseen (bs : List Byte) :
    (s.mapUnseen keys count).loadV bs = (s.loadV bs).mapUnseen keys count := rfl

@[simp] theorem memRead_mapUnseen (a : Nat) : memRead (s.mapUnseen keys count) a = memRead s a := rfl

@[simp] theorem readBytes_mapUnseen (a n : Nat) : readBytes (s.mapUnseen keys count) a n = readBytes s a n := by
  induction n generalizing a with
  | zero => rfl
  | succ n ih => simp only [readBytes, memRead_mapUnseen, ih]

theorem memWrite_mapUnseen (a : Nat) (v : Byte) :
    memWrite (s.mapUnseen keys count) a v = (memWrite s a v).map (·.mapUnseen keys count) := by
  unfold memWrite
  split_ifs <;> rfl

theorem writeBytes_mapUnseen (a : Nat) (bs : List Byte) :
    writeBytes (s.mapUnseen keys count) a bs = (writeBytes s a bs).map (·.mapUnseen keys count) := by
  induction bs generalizing s a with
  | nil => rfl
  | cons v bs ih =>
    simp only [writeBytes, memWrite_mapUnseen]
    cases memWrite s a v with
    | error f => rfl
    | ok t => exact ih t (a + 1)

theorem addToI_mapUnseen (k : Nat) :
    addToI (s.mapUnseen keys count) k = (addToI s k).map (·.mapUnseen keys count) := by
  by_cases hk : s.I.toNat + k ≤ 0xFFFF
  · rw [addToI_fits s k hk, addToI_fits (s.mapUnseen keys count) k hk]
    rfl
  · have hlt : 0xFFFF < s.I.toNat + k := Nat.lt_of_not_le hk
    cases hp : s.params.iOverflow with
    | fault =>
      rw [addToI_fault s k hlt hp, addToI_fault (s.mapUnseen keys count) k hlt hp]
      rfl
    | wrap16 =>
      rw [addToI_wrap s k hlt hp, addToI_wrap (s.mapUnseen keys count) k hlt hp]
      rfl

theorem applyLdstIncrement_mapUnseen (x : Reg) :
    applyLdstIncrement (s.mapUnseen keys count) x = (applyLdstIncrement s x).map (·.mapUnseen keys count) := by
  simp only [applyLdstIncrement, State.mapUnseen_params]
  cases s.params.ldstIncrement with
  | none => rfl
  | nPlus1 => exact addToI_mapUnseen keys count s _
  | n => exact addToI_mapUnseen keys count s _

theorem push_mapUnseen (v : Word) :
    push (s.mapUnseen keys count) v = (push s v).map (·.mapUnseen keys count) := by
  by_cases hd : s.depth.val < 16
  · rw [push_ok s v hd, push_ok (s.mapUnseen keys count) v hd]
    rfl
  · have hfull : s.depth.val = 16 := by omega
    rw [push_full s v hfull, push_full (s.mapUnseen keys count) v hfull]
    rfl

theorem pop_mapUnseen :
    pop (s.mapUnseen keys count) = (pop s).map fun r => (r.1, r.2.mapUnseen keys count) := by
  by_cases hd : s.depth.val = 0
  · rw [pop_empty s hd, pop_empty (s.mapUnseen keys count) hd]
    rfl
  · rw [pop_ok s hd, pop_ok (s.mapUnseen keys count) hd]
    rfl

theorem writeFlagged_mapUnseen (x : Reg) (r : Byte) (c : Bool) :
    writeFlagged (s.mapUnseen keys count) x r c = (writeFlagged s x r c).mapUnseen keys count := by
  simp only [writeFlagged, State.mapUnseen_params]
  cases s.params.vfWriteOrder <;> rfl

/-- A change to the keypad and the cycle count commutes with every instruction; with the three that read the keypad, where
it leaves the keypad as it is. -/
theorem exec_mapUnseen {i : Instr}
    (hkey : (∃ x, i = .keyIsPressed x ∨ i = .keyIsntPressed x ∨ i = .awaitKeyPress x) → keys = id) :
    exec i (s.mapUnseen keys count) = mapNext (·.mapUnseen keys count) (exec i s) := by
  cases i with
  | keyIsPressed | keyIsntPressed =>
    obtain rfl := hkey (by simp)
    rfl
  | awaitKeyPress x =>
    obtain rfl := hkey (by simp)
    simp only [exec, execAwaitKeyPress, State.lowestKey_mapUnseen_id]
    cases s.lowestKey <;> rfl
  | returnFromSub =>
    simp only [exec, execReturnFromSub, pop_mapUnseen]
    cases pop s <;> rfl
  | call nnn =>
    simp only [exec, execCall, State.mapUnseen_PC, push_mapUnseen]
    cases push s (s.PC + 2) <;> rfl
  | addReg | subReg | subRegRev | rightShiftReg | leftShiftReg =>
    exact congrArg (fun t => Host.Outcome.next t.advance) (writeFlagged_mapUnseen keys count s _ _ _)
  | drawSprite x y n =>
    simp only [exec, execDrawSprite, drawSpriteWith, State.addrI_mapUnseen, readBytes_mapUnseen]
    cases readBytes s (s.addrI 0) n.val <;> rfl
  | addAddressReg x =>
    simp only [exec, execAddAddressReg, State.readV_mapUnseen, addToI_mapUnseen]
    cases addToI s (s.readV x).toNat <;> rfl
  | storeBCDAtAddress x =>
    simp only [exec, execStoreBCDAtAddress, State.addrI_mapUnseen, State.readV_mapUnseen, writeBytes_mapUnseen]
    cases writeBytes s (s.addrI 0) (bcdDigits (s.readV x)) <;> rfl
  | storeRegisters x =>
    simp only [exec, execStoreRegisters, State.addrI_mapUnseen, State.valuesUpTo_mapUnseen, writeBytes_mapUnseen]
    cases writeBytes s (s.addrI 0) (s.valuesUpTo x) with
    | error f => rfl
    | ok t =>
      simp only [Except.map, applyLdstIncrement_mapUnseen]
      cases applyLdstIncrement t x <;> rfl
  | loadRegisters x =>
    simp only [exec, execLoadRegisters, State.addrI_mapUnseen, readBytes_mapUnseen, State.loadV_mapUnseen]
    cases readBytes s (s.addrI 0) (x.val + 1) with
    | error f => rfl
    | ok bs =>
      simp only [applyLdstIncrement_mapUnseen]
      cases applyLdstIncrement (s.loadV bs) x <;> rfl
  | _ => rfl

end

/-- Settles O50: replacing the cycle count is a change to an unseen part that leaves the keypad as it is. -/
theorem cycleCountIsUnobservable : Obligations.CycleCountIsUnobservable := by
  intro i s c
  exact exec_mapUnseen id (fun _ => c) s fun _ => rfl

end Sys2Proof.Machine
end

section
/-! PROOFS. The fetch, the machine's one-byte accesses, and memories as data: what a word or a byte stored is read back
as, and which bytes an instruction may write (R51 to R56, R63). -/

namespace Sys2Proof.Machine

/-! ### The fetch -/

/-- Settles O8: the fetch fails there, and a step whose fetch fails is that fault. -/
theorem fetchOutOfBoundsEndsTheStep : Obligations.FetchOutOfBoundsEndsTheStep := by
  intro s hPC
  rw [step, fetchWord_error hPC]
  rfl

/-- The first byte of a word in memory is its upper half (R55). -/
theorem wordOfBytes_toNat (hi lo : Byte) : (wordOfBytes hi lo).toNat = hi.toNat * 256 + lo.toNat := by
  rw [wordOfBytes, BitVec.toNat_append, ← Nat.shiftLeft_add_eq_or_of_lt lo.isLt, Nat.shiftLeft_eq]

/-- Settles O9: a fetch reads memory alone, and `writeBytes` left there the two bytes. -/
theorem fetchSeesStoredBytes : Obligations.FetchSeesStoredBytes := by
  rintro s t u a hi lo hw hM rfl
  obtain ⟨hfit, m, rfl, -, hget⟩ := writeBytes_eq_ok hw
  have hPC : u.PC.toNat + 2 ≤ 4096 := by simpa using hfit
  refine ⟨wordOfBytes hi lo, fetchWord_eq_ok.2 ⟨by omega, ?_⟩, wordOfBytes_toNat hi lo⟩
  rw [hM, hget, hget]
  simp

/-! ### A read after a write -/

/-- The frame of a write of one byte. -/
theorem frame_setMemory (s : State) (a : Nat) (v : Byte) : Frame (· = .mem a) s { s with M := s.M.set a v } := by
  refine (frame_memory s (s.M.set a v)).mono ?_
  rintro f ⟨b, hb, rfl⟩
  obtain rfl : a = b := not_not.1 fun hab => hb (by rw [Memory.get_set, if_neg hab])
  rfl

theorem memRead_error {s : State} {a : Nat} (h : 4096 ≤ a) : memRead s a = .error (.outOfBoundsAccess s.PC a) :=
  if_pos h

theorem memWrite_error {s : State} {a : Nat} (h : 4096 ≤ a) (v : Byte) :
    memWrite s a v = .error (.outOfBoundsAccess s.PC a) :=
  if_pos h

/-- Settles O31: inside memory both accesses succeed and `Memory.get_set` says what is read; outside both fail. -/
theorem readAfterWrite : Obligations.ReadAfterWrite := by
  intro s a b v
  refine ⟨fun ha hb => ⟨_, memWrite_eq_ok.2 ⟨ha, rfl⟩, ?_, frame_setMemory s a v⟩,
    fun ha => ⟨memWrite_error ha v, memRead_error ha⟩⟩
  have hread : ∀ t : State, memRead t b = .ok (t.M.get b) := fun t => memRead_eq_ok.2 ⟨hb, rfl⟩
  rw [hread, hread, Memory.get_set]
  split <;> rfl

/-! ### A word placed for the fetch (log entry 6) -/

theorem storeWordAt_eq {s : State} {a : Nat} (h : a + 1 < 4096) (w : Word) :
    storeWordAt s a w = { s with M := (s.M.set a (hiByte w)).set (a + 1) (loByte w) } :=
  if_pos h

theorem frame_storeWordAt (s : State) (a : Nat) (w : Word) :
    Frame (fun f => f = .mem a ∨ f = .mem (a + 1)) s (storeWordAt s a w) := by
  by_cases h : a + 1 < 4096
  · rw [storeWordAt_eq h]
    have hhi := frame_setMemory s a (hiByte w)
    have hlo := frame_setMemory { s with M := s.M.set a (hiByte w) } (a + 1) (loByte w)
    exact (hhi.mono fun _ => .inl).trans (hlo.mono fun _ => .inr)
  · rw [storeWordAt, if_neg h]
    exact Frame.refl _ s

theorem fetchWord_storeWordAt {s : State} (h : s.PC.toNat < 4095) (w : Word) :
    fetchWord (storeWordAt s s.PC.toNat w) = .ok w := by
  rw [storeWordAt_eq (by omega)]
  refine fetchWord_eq_ok.2 ⟨h, ?_⟩
  simp

/-- Settles O10: `withFetchWord` is a `storeWordAt` at `PC`, of the word itself. -/
theorem withFetchWordIsFetchedNext : Obligations.WithFetchWordIsFetchedNext := by
  intro s w hPC hw
  have hword : s.withFetchWord 16 w = storeWordAt s s.PC.toNat (BitVec.ofNat 16 w) := by
    rw [State.withFetchWord, Nat.mod_eq_of_lt (show w < 2 ^ 16 from hw)]
  rw [hword]
  exact ⟨fetchWord_storeWordAt hPC _, frame_storeWordAt s _ _⟩

/-! ### The canonical form (log entry 7): the entries of a memory are what it reads -/

/-- An address that does not read as an unlisted one is listed, with the byte it reads as. -/
theorem Memory.mem_of_get_ne {m : Memory} {a : Nat} (h : m.get a ≠ Memory.unlisted) : (a, m.get a) ∈ m := by
  induction m with
  | nil => exact absurd rfl h
  | cons c m ih =>
    rw [Memory.get_cons] at h ⊢
    split_ifs at h ⊢ with hc
    · subst hc
      exact List.mem_cons_self
    · exact List.mem_cons_of_mem c (ih h)

/-- With rising addresses the entry for an address is the one that is read. -/
theorem Memory.get_of_mem {m : Memory} (hm : m.Pairwise fun c d => c.1 < d.1) {c : Host.Cell} (hc : c ∈ m) :
    m.get c.1 = c.2 := by
  induction hm with
  | nil => exact absurd hc List.not_mem_nil
  | @cons d m hd _ ih =>
    rw [Memory.get_cons]
    obtain rfl | hc := List.mem_cons.1 hc
    · exact if_pos rfl
    · rw [if_neg (hd c hc).ne, ih hc]

theorem Memory.wf.mem_iff {m : Memory} (h : m.wf) {c : Host.Cell} :
    c ∈ m ↔ c.1 < 4096 ∧ m.get c.1 = c.2 ∧ c.2 ≠ Memory.unlisted := by
  obtain ⟨hrising, hcells⟩ := h
  constructor
  · intro hc
    obtain ⟨hin, hne⟩ := hcells c hc
    exact ⟨hin, Memory.get_of_mem hrising hc, hne⟩
  · rintro ⟨-, hget, hne⟩
    rw [← hget] at hne
    have hc : (c.1, m.get c.1) ∈ m := Memory.mem_of_get_ne hne
    rwa [hget] at hc

theorem Memory.wf.nodup {m : Memory} (h : m.wf) : m.Nodup :=
  h.1.imp fun hlt e => hlt.ne (congrArg Prod.fst e)

/-- Settles O32: they have the same entries, and a list in rising order is determined by its entries. -/
theorem canonicalMemoriesAreEqual : Obligations.CanonicalMemoriesAreEqual := by
  intro m m' hm hm' hget
  have hmem : ∀ c, c ∈ m ↔ c ∈ m' := fun c => by
    rw [hm.mem_iff, hm'.mem_iff]
    exact and_congr_right fun hc => by rw [hget c.1 hc]
  exact ((List.perm_ext_iff_of_nodup hm.nodup hm'.nodup).2 hmem).eq_of_pairwise
    (fun _ _ _ _ hlt hgt => absurd hgt hlt.asymm) hm.1 hm'.1

/-! ### Who writes memory (R51) -/

/-- Settles O47: a byte of memory is among the parts only the two stores may write, at these addresses. -/
theorem onlyStoresWriteMemory : Obligations.OnlyStoresWriteMemory := by
  intro i s t a h ha
  have hw : mayWrite i s (.mem a) := mayWrite_of_changed h ha
  cases i with
  | storeBCDAtAddress | storeRegisters => simpa using hw
  | _ => simp at hw

end Sys2Proof.Machine
end


section
/-! PROOFS. The decoder's answer for a word, said once (`decodeWord_answer`): what it is for the words of R89's table,
and for the others that it is well-formed and encodes back. Both round trips of R92, R71 and R86 follow. -/

namespace Sys2Proof

/-! ### A word by its family and its other fields -/

theorem encNNN_of_family {w : Word} {f : BitVec 4} (hf : fieldFamily w = f) : encNNN f (fieldNNN w) = w :=
  hf ▸ encNNN_fields w

theorem encXKK_of_family {w : Word} {f : BitVec 4} (hf : fieldFamily w = f) : encXKK f (regX w) (fieldKK w) = w :=
  hf ▸ encXKK_fields w

theorem encXYN_of_family {w : Word} {f : BitVec 4} (hf : fieldFamily w = f) :
    encXYN f (regX w) (regY w) (fieldN w) = w :=
  hf ▸ encXYN_fields w

/-! ### The table of R89 by the fields of the word -/

theorem isUnknownWord_iff {strict : Bool} {w : Word} :
    isUnknownWord strict w = true ↔
      fieldFamily w = 0x5 ∧ strict = true ∧ fieldN w ≠ 0 ∨
      fieldFamily w = 0x8 ∧ fieldN w ∈ [0x8, 0x9, 0xA, 0xB, 0xC, 0xD, 0xF] ∨
      fieldFamily w = 0x9 ∧ strict = true ∧ fieldN w ≠ 0 ∨
      fieldFamily w = 0xE ∧ fieldKK w ∉ [0x9E, 0xA1] ∨
      fieldFamily w = 0xF ∧ fieldKK w ∉ [0x07, 0x0A, 0x15, 0x18, 0x1E, 0x29, 0x33, 0x55, 0x65] := by
  simp [isUnknownWord, ← fieldFamily_toNat, ← fieldN_toNat, ← fieldKK_toNat, ← BitVec.toNat_inj, or_assoc, and_assoc]

theorem family_of_isUnknownWord {strict : Bool} {w : Word} (h : isUnknownWord strict w = true) :
    fieldFamily w ∈ [0x5, 0x8, 0x9, 0xE, 0xF] := by
  simp only [List.mem_cons, List.not_mem_nil, or_false]
  exact (isUnknownWord_iff.1 h).imp And.left (.imp And.left (.imp And.left (.imp And.left And.left)))

/-! ### What the decoder can answer for a word -/

/-- What the decoder owes for a word (R86, R92): for a word of R89's table `Unknown` with that word, for any other a
named variant that is well-formed and whose own word is the word decoded, up to the low nibble that families 0x5 and 0x9
ignore without `STRICT_5_9`. -/
inductive Answer (strict : Bool) (w : Word) (i : Instr) : Prop
  | named (hw : ¬ isUnknownWord strict w = true) (htag : i.tag ≠ 35) (hwf : i.wf strict = true)
      (henc : encode i = w ∨ strict = false ∧ (fieldFamily w = 0x5 ∨ fieldFamily w = 0x9))
  | unknown (hw : isUnknownWord strict w = true) (hi : i = .unknown w)

section
variable {strict : Bool} {w : Word} {i : Instr} {f : BitVec 4}

/-- A variant of a family without words of R89's table. -/
theorem Answer.ofFamily (hall : f ∉ [0x5, 0x8, 0x9, 0xE, 0xF]) (htag : i.tag ≠ 35) (hwf : i.wf strict = true)
    (henc : fieldFamily w = f → encode i = w) (hf : (fieldFamily w).toNat = f.toNat) : Answer strict w i :=
  have hf : fieldFamily w = f := BitVec.eq_of_toNat_eq hf
  .named (fun h => hall (hf ▸ family_of_isUnknownWord h)) htag hwf (.inl (henc hf))

/-- The variant of family 0x5 or 0x9, whose low nibble is 0 or ignored (R81). -/
theorem Answer.ofStrictNibble (hf : fieldFamily w = f) (hfs : f = 0x5 ∨ f = 0x9) (htag : i.tag ≠ 35)
    (hwf : i.wf strict = true) (henc : encode i = encXYN f (regX w) (regY w) 0) :
    Answer strict w (if fieldN w = 0 ∨ strict = false then i else .unknown w) := by
  have hw : isUnknownWord strict w = true ↔ ¬ (fieldN w = 0 ∨ strict = false) := by
    obtain rfl | rfl := hfs <;> simp [isUnknownWord_iff, hf, and_comm]
  split_ifs with h
  · refine .named (hw.not.2 (not_not_intro h)) htag hwf (h.imp (fun hn => ?_) fun hs => ⟨hs, hf ▸ hfs⟩)
    rw [henc, ← hn, encXYN_of_family hf]
  · exact .unknown (hw.2 h) rfl

/-- A variant of family 0x8, by its low nibble (R82). -/
theorem Answer.ofLowNibble {s : BitVec 4} (hf : fieldFamily w = 0x8) (hn : (fieldN w).toNat = s.toNat)
    (hs : s ∉ [0x8, 0x9, 0xA, 0xB, 0xC, 0xD, 0xF]) (htag : i.tag ≠ 35) (hwf : i.wf strict = true)
    (henc : encode i = encXYN 0x8 (regX w) (regY w) s) : Answer strict w i := by
  obtain rfl := BitVec.eq_of_toNat_eq hn
  exact .named (by simpa [isUnknownWord_iff, hf] using hs) htag hwf (.inl (henc.trans (encXYN_of_family hf)))

/-- A variant of family 0xE or 0xF, by its low byte (R84, R85). -/
theorem Answer.ofLowByte {s : Byte} (hf : fieldFamily w = f) (hk : fieldKK w = s)
    (hs : f = 0xE ∧ s ∈ [0x9E, 0xA1] ∨ f = 0xF ∧ s ∈ [0x07, 0x0A, 0x15, 0x18, 0x1E, 0x29, 0x33, 0x55, 0x65])
    (htag : i.tag ≠ 35) (hwf : i.wf strict = true) (henc : encode i = encXKK f (regX w) s) : Answer strict w i := by
  subst hk
  refine .named (fun h => ?_) htag hwf (.inl (henc.trans (encXKK_of_family hf)))
  obtain ⟨rfl, hs⟩ | ⟨rfl, hs⟩ := hs
  · have hs' : fieldKK w ∉ [0x9E, 0xA1] := by simpa [isUnknownWord_iff, hf] using h
    exact hs' hs
  · have hs' : fieldKK w ∉ [0x07, 0x0A, 0x15, 0x18, 0x1E, 0x29, 0x33, 0x55, 0x65] := by
      simpa [isUnknownWord_iff, hf] using h
    exact hs' hs

theorem decodeFamily0_answer (hf : (fieldFamily w).toNat = 0x0) : Answer strict w (decodeFamily0 w) := by
  have henc : fieldFamily w = 0x0 → encNNN 0x0 (fieldNNN w) = w := encNNN_of_family
  unfold decodeFamily0
  split_ifs with hE0 hEE
  · rw [hE0] at henc
    exact .ofFamily (by decide) (by decide) rfl henc hf
  · rw [hEE] at henc
    exact .ofFamily (by decide) (by decide) rfl henc hf
  · have hwf : (Instr.sysCall (fieldNNN w)).wf strict = true :=
      Bool.and_eq_true_iff.2 ⟨bne_iff_ne.2 hE0, bne_iff_ne.2 hEE⟩
    exact .ofFamily (by decide) (by simp [Instr.tag]) hwf henc hf

theorem decodeFamily5_answer (hf : fieldFamily w = 0x5) : Answer strict w (decodeFamily5 strict w) :=
  .ofStrictNibble hf (.inl rfl) (by simp [Instr.tag]) rfl rfl

theorem decodeFamily9_answer (hf : fieldFamily w = 0x9) : Answer strict w (decodeFamily9 strict w) :=
  .ofStrictNibble hf (.inr rfl) (by simp [Instr.tag]) rfl rfl

theorem decodeFamily8_answer (hf : fieldFamily w = 0x8) : Answer strict w (decodeFamily8 w) := by
  unfold decodeFamily8
  split
  case h_10 =>
    have hn : fieldN w ∈ [0x8, 0x9, 0xA, 0xB, 0xC, 0xD, 0xF] := by
      have hlt := (fieldN w).isLt
      simp only [imp_false] at *
      simp [← BitVec.toNat_inj]
      omega
    exact .unknown (isUnknownWord_iff.2 (.inr (.inl ⟨hf, hn⟩))) rfl
  all_goals exact .ofLowNibble hf ‹_› (by decide) (by simp [Instr.tag]) rfl rfl

theorem decodeFamilyE_answer (hf : fieldFamily w = 0xE) : Answer strict w (decodeFamilyE w) := by
  unfold decodeFamilyE
  repeat' split
  case isFalse => exact .unknown (isUnknownWord_iff.2 (by simp_all)) rfl
  all_goals exact .ofLowByte hf ‹_› (by decide) (by simp [Instr.tag]) rfl rfl

theorem decodeFamilyF_answer (hf : fieldFamily w = 0xF) : Answer strict w (decodeFamilyF w) := by
  unfold decodeFamilyF
  repeat' split
  case isFalse => exact .unknown (isUnknownWord_iff.2 (by simp_all)) rfl
  all_goals exact .ofLowByte hf ‹_› (by decide) (by simp [Instr.tag]) rfl rfl

end

theorem decodeWord_answer (strict : Bool) (w : Word) : Answer strict w (decodeWord strict w) := by
  have family : ∀ {f : BitVec 4}, (fieldFamily w).toNat = f.toNat → fieldFamily w = f := BitVec.eq_of_toNat_eq
  unfold decodeWord
  split
  case h_1 h => exact decodeFamily0_answer h
  case h_6 h => exact decodeFamily5_answer (family h)
  case h_9 h => exact decodeFamily8_answer (family h)
  case h_10 h => exact decodeFamily9_answer (family h)
  case h_15 h => exact decodeFamilyE_answer (family h)
  case h_16 h => exact decodeFamilyF_answer (family h)
  case h_2 h | h_3 h | h_11 h | h_12 h => exact .ofFamily (by decide) (by simp [Instr.tag]) rfl encNNN_of_family h
  case h_4 h | h_5 h | h_7 h | h_8 h | h_13 h =>
    exact .ofFamily (by decide) (by simp [Instr.tag]) rfl encXKK_of_family h
  case h_14 h => exact .ofFamily (by decide) (by simp [Instr.tag]) rfl encXYN_of_family h
  case h_17 =>
    have hlt := (fieldFamily w).isLt
    simp only [imp_false] at *
    omega

/-! ### The families that dispatch further, each decoded by its own function (R77) -/

section
variable {strict : Bool} {w : Word}

theorem decodeWord_family0 (hf : (fieldFamily w).toNat = 0x0) : decodeWord strict w = decodeFamily0 w := by
  simp only [decodeWord, hf]

theorem decodeWord_family5 (hf : (fieldFamily w).toNat = 0x5) : decodeWord strict w = decodeFamily5 strict w := by
  simp only [decodeWord, hf]

theorem decodeWord_family8 (hf : (fieldFamily w).toNat = 0x8) : decodeWord strict w = decodeFamily8 w := by
  simp only [decodeWord, hf]

theorem decodeWord_family9 (hf : (fieldFamily w).toNat = 0x9) : decodeWord strict w = decodeFamily9 strict w := by
  simp only [decodeWord, hf]

theorem decodeWord_familyE (hf : (fieldFamily w).toNat = 0xE) : decodeWord strict w = decodeFamilyE w := by
  simp only [decodeWord, hf]

theorem decodeWord_familyF (hf : (fieldFamily w).toNat = 0xF) : decodeWord strict w = decodeFamilyF w := by
  simp only [decodeWord, hf]

end

/-! ### The statements -/

/-- Settles O4: the two forms of an answer. -/
theorem unknownIsExactlyTheListedWords : Obligations.UnknownIsExactlyTheListedWords := by
  intro strict w u
  obtain ⟨hw, htag, -, -⟩ | ⟨hw, hi⟩ := decodeWord_answer strict w
  · exact ⟨fun hi => absurd (congrArg Instr.tag hi) htag, fun h => absurd h.1 hw⟩
  · simp [hw, hi, eq_comm]

/-- Settles O1, format by format: the fields of an encoded word are its operands, and a legacy call or an `Unknown` is
well-formed where the decoder has no other variant for its word. -/
theorem decodeOfEncodeIsIdentity : Obligations.DecodeOfEncodeIsIdentity := by
  intro strict i hwf
  cases i with
  | clearScreen | returnFromSub => rfl
  | sysCall nnn =>
    obtain ⟨hE0, hEE⟩ : nnn ≠ 0x0E0 ∧ nnn ≠ 0x0EE := by simpa [Instr.wf] using hwf
    rw [encode, decodeWord_family0 (by simp), decodeFamily0, fieldNNN_encNNN, if_neg hE0, if_neg hEE]
  | unknown w => exact (unknownIsExactlyTheListedWords strict w w).2 ⟨hwf, rfl⟩
  | jump | call | setAddressReg | jumpIndirect => simp [encode, decodeWord]
  | skipEquals | skipNotEquals | setReg | addConst | randomNumber => simp [encode, decodeWord]
  | drawSprite => simp [encode, decodeWord, countN]
  | skipRegEquals => simp [encode, decodeWord_family5, decodeFamily5]
  | skipRegNotEquals => simp [encode, decodeWord_family9, decodeFamily9]
  | keyIsPressed | keyIsntPressed => simp [encode, decodeWord_familyE, decodeFamilyE]
  | copyReg | orReg | andReg | xorReg | addReg | subReg | rightShiftReg | subRegRev | leftShiftReg =>
    simp [encode, decodeWord_family8, decodeFamily8]
  | readDelayTimer | awaitKeyPress | setDelayTimer | setSoundTimer | addAddressReg | addressKeySprite
  | storeBCDAtAddress | storeRegisters | loadRegisters =>
    simp [encode, decodeWord_familyF, decodeFamilyF]

theorem encode_decodeWord (strict : Bool) (w : Word) :
    encode (decodeWord strict w) = w ∨ strict = false ∧ (fieldFamily w = 0x5 ∨ fieldFamily w = 0x9) := by
  obtain ⟨-, -, -, henc⟩ | ⟨-, hi⟩ := decodeWord_answer strict w
  · exact henc
  · exact .inl (congrArg encode hi)

/-- Settles O2: with `STRICT_5_9` no word is the exception of `encode_decodeWord`, and without it 0x5120 and 0x5121
decode alike. -/
theorem encodeOfDecodeIsIdentity : Obligations.EncodeOfDecodeIsIdentity :=
  ⟨fun w => (encode_decodeWord true w).resolve_right (by simp), 0x5120, 0x5121, by decide, by decide⟩

theorem decodeWord_wf (strict : Bool) (w : Word) : (decodeWord strict w).wf strict = true := by
  obtain ⟨-, -, hwf, -⟩ | ⟨hw, hi⟩ := decodeWord_answer strict w
  · exact hwf
  · rw [hi]
    exact hw

theorem Instr.tag_toNat_le (i : Instr) : i.tag.toNat ≤ 35 := by
  cases i <;> simp [Instr.tag]

/-- Settles O3: the answer is well-formed, and the ports are the fields as numbers. -/
theorem portsDriveTheFieldsOfEveryWord : Obligations.PortsDriveTheFieldsOfEveryWord := fun strict w =>
  ⟨decodeWord_wf strict w, rfl, Instr.tag_toNat_le _, fieldX_toNat w, fieldY_toNat w, fieldN_toNat w, fieldKK_toNat w,
    fieldNNN_toNat w, rfl⟩

/-- Settles O6, by running the decoder on each word. -/
theorem sampleWordsDecode : Obligations.SampleWordsDecode := by
  unfold Obligations.SampleWordsDecode
  decide

end Sys2Proof
end

section
/-! PROOFS. The opcode map against the decoder (R88). The bits a row masks fix the tag of a word that matches it, so the
tag is that of the row's own `match` word; tags tell the rows apart; and the words of R89's table are those no row
matches. -/

namespace Sys2Proof

/-! ### The bits that fix the variant (R76) -/

/-- The bits of a word of family `f` that fix its variant. Family 0x0 compares the whole of `nnn` (R78). -/
def opcodeMask (strict : Bool) (f : BitVec 4) : Word :=
  match f.toNat with
  | 0x0 => 0xFFFF
  | 0x5 | 0x9 => if strict then 0xF00F else 0xF000
  | 0x8 => 0xF00F
  | 0xE | 0xF => 0xF0FF
  | _ => 0xF000

section
variable {strict : Bool} {w p : Word}

theorem family_of_mask (h : w &&& 0xF000 = p) : fieldFamily w = fieldFamily p := by
  rw [← h, mask_family, fieldFamily_encNNN]

theorem family_n_of_mask (h : w &&& 0xF00F = p) : fieldFamily w = fieldFamily p ∧ fieldN w = fieldN p := by
  rw [← h, mask_family_n, fieldFamily_encXYN, fieldN_encXYN]
  exact ⟨rfl, rfl⟩

theorem family_kk_of_mask (h : w &&& 0xF0FF = p) : fieldFamily w = fieldFamily p ∧ fieldKK w = fieldKK p := by
  rw [← h, mask_family_kk, fieldFamily_encXKK, fieldKK_encXKK]
  exact ⟨rfl, rfl⟩

theorem family_n_of_strict_mask (h : w &&& (if strict then 0xF00F else 0xF000) = p) :
    fieldFamily w = fieldFamily p ∧ (fieldN w = 0 ∨ strict = false ↔ fieldN p = 0 ∨ strict = false) := by
  cases strict with
  | false => exact ⟨family_of_mask h, by simp⟩
  | true =>
    obtain ⟨hf, hn⟩ := family_n_of_mask h
    exact ⟨hf, by rw [hn]⟩

theorem decodeFamily5_tag_congr (h : fieldN w = 0 ∨ strict = false ↔ fieldN p = 0 ∨ strict = false) :
    (decodeFamily5 strict w).tag = (decodeFamily5 strict p).tag := by
  simp only [decodeFamily5, h]
  split_ifs <;> rfl

theorem decodeFamily9_tag_congr (h : fieldN w = 0 ∨ strict = false ↔ fieldN p = 0 ∨ strict = false) :
    (decodeFamily9 strict w).tag = (decodeFamily9 strict p).tag := by
  simp only [decodeFamily9, h]
  split_ifs <;> rfl

theorem decodeFamily8_tag_congr (h : fieldN w = fieldN p) : (decodeFamily8 w).tag = (decodeFamily8 p).tag := by
  unfold decodeFamily8
  rw [h]
  split <;> rfl

theorem decodeFamilyE_tag_congr (h : fieldKK w = fieldKK p) : (decodeFamilyE w).tag = (decodeFamilyE p).tag := by
  simp only [decodeFamilyE, h, apply_ite Instr.tag]
  rfl

theorem decodeFamilyF_tag_congr (h : fieldKK w = fieldKK p) : (decodeFamilyF w).tag = (decodeFamilyF p).tag := by
  simp only [decodeFamilyF, h, apply_ite Instr.tag]
  rfl

/-- Words that agree on the bits that fix the variant decode to one tag. -/
theorem decodeWord_tag_of_mask (h : w &&& opcodeMask strict (fieldFamily p) = p) :
    (decodeWord strict w).tag = (decodeWord strict p).tag := by
  unfold opcodeMask at h
  split at h
  case h_1 => rw [← h, show (0xFFFF : Word) = BitVec.allOnes 16 from rfl, BitVec.and_allOnes]
  case h_2 hp =>
    obtain ⟨hf, hn⟩ := family_n_of_strict_mask h
    rw [decodeWord_family5 (hf ▸ hp), decodeWord_family5 hp, decodeFamily5_tag_congr hn]
  case h_3 hp =>
    obtain ⟨hf, hn⟩ := family_n_of_strict_mask h
    rw [decodeWord_family9 (hf ▸ hp), decodeWord_family9 hp, decodeFamily9_tag_congr hn]
  case h_4 hp =>
    obtain ⟨hf, hn⟩ := family_n_of_mask h
    rw [decodeWord_family8 (hf ▸ hp), decodeWord_family8 hp, decodeFamily8_tag_congr hn]
  case h_5 hp =>
    obtain ⟨hf, hk⟩ := family_kk_of_mask h
    rw [decodeWord_familyE (hf ▸ hp), decodeWord_familyE hp, decodeFamilyE_tag_congr hk]
  case h_6 hp =>
    obtain ⟨hf, hk⟩ := family_kk_of_mask h
    rw [decodeWord_familyF (hf ▸ hp), decodeWord_familyF hp, decodeFamilyF_tag_congr hk]
  case h_7 =>
    unfold decodeWord
    rw [family_of_mask h]
    split
    case h_1 | h_6 | h_9 | h_10 | h_15 | h_16 => contradiction
    all_goals rfl

end

/-! ### The rows of R88 -/

theorem opcodeTable_mask (strict : Bool) : ∀ row ∈ opcodeTable strict,
    row.1 = opcodeMask strict (fieldFamily row.2.1) ∨ row = (0xF000, 0x0000, 34) := by
  cases strict <;> exact List.all_iff_forall_prop.mp rfl

theorem opcodeTable_tag (strict : Bool) : ∀ row ∈ opcodeTable strict, (decodeWord strict row.2.1).tag = row.2.2 := by
  cases strict <;> exact List.all_iff_forall_prop.mp rfl

theorem opcodeTable_tags_nodup (strict : Bool) : ((opcodeTable strict).map (·.2.2)).Nodup := by
  cases strict <;> decide

section
variable {strict : Bool} {w : Word} {row : Word × Word × BitVec 6}

theorem rowMatches_iff : rowMatches row w = true ↔
    w &&& row.1 = row.2.1 ∧ (row.2.2 = 34 → w ≠ 0x00E0 ∧ w ≠ 0x00EE) := by
  simp only [rowMatches, Bool.and_eq_true, Bool.not_eq_true', Bool.and_eq_false_imp, Bool.or_eq_false_iff, beq_iff_eq,
    beq_eq_false_iff_ne]

theorem rowMatches_of_tag_ne (htag : row.2.2 ≠ 34) (h : w &&& row.1 = row.2.1) : rowMatches row w = true :=
  rowMatches_iff.2 ⟨h, fun h34 => absurd h34 htag⟩

theorem decodeWord_of_sysCallRow (h : rowMatches (0xF000, 0x0000, 34) w = true) :
    decodeWord strict w = .sysCall (fieldNNN w) := by
  obtain ⟨hm, hne⟩ := rowMatches_iff.1 h
  obtain ⟨hE0, hEE⟩ := hne rfl
  have hf : fieldFamily w = 0x0 := family_of_mask hm
  have henc : encNNN 0x0 (fieldNNN w) = w := encNNN_of_family hf
  have h1 : fieldNNN w ≠ 0x0E0 := fun h => hE0 (by rw [← henc, h]; rfl)
  have h2 : fieldNNN w ≠ 0x0EE := fun h => hEE (by rw [← henc, h]; rfl)
  rw [decodeWord_family0 (by rw [hf]; rfl), decodeFamily0, if_neg h1, if_neg h2]

theorem decodeWord_tag_of_rowMatches (hrow : row ∈ opcodeTable strict) (h : rowMatches row w = true) :
    (decodeWord strict w).tag = row.2.2 := by
  obtain hmask | rfl := opcodeTable_mask strict row hrow
  · have hw : w &&& opcodeMask strict (fieldFamily row.2.1) = row.2.1 := hmask ▸ (rowMatches_iff.1 h).1
    exact (decodeWord_tag_of_mask hw).trans (opcodeTable_tag strict row hrow)
  · rw [decodeWord_of_sysCallRow h]
    rfl

end

/-- The family `Pattern` for every instruction. -/
theorem pattern (i : Instr) : Laws.Pattern.Statement i := by
  open Laws in
  cases i with
  | clearScreen => exact Pattern.clearScreen
  | returnFromSub => exact Pattern.returnFromSub
  | sysCall nnn => exact Pattern.sysCall nnn
  | jump nnn => exact Pattern.jump nnn
  | call nnn => exact Pattern.call nnn
  | skipEquals x kk => exact Pattern.skipEquals x kk
  | skipNotEquals x kk => exact Pattern.skipNotEquals x kk
  | skipRegEquals x y => exact Pattern.skipRegEquals x y
  | setReg x kk => exact Pattern.setReg x kk
  | addConst x kk => exact Pattern.addConst x kk
  | copyReg x y => exact Pattern.copyReg x y
  | orReg x y => exact Pattern.orReg x y
  | andReg x y => exact Pattern.andReg x y
  | xorReg x y => exact Pattern.xorReg x y
  | addReg x y => exact Pattern.addReg x y
  | subReg x y => exact Pattern.subReg x y
  | rightShiftReg x y => exact Pattern.rightShiftReg x y
  | subRegRev x y => exact Pattern.subRegRev x y
  | leftShiftReg x y => exact Pattern.leftShiftReg x y
  | skipRegNotEquals x y => exact Pattern.skipRegNotEquals x y
  | setAddressReg nnn => exact Pattern.setAddressReg nnn
  | jumpIndirect nnn => exact Pattern.jumpIndirect nnn
  | randomNumber x kk => exact Pattern.randomNumber x kk
  | drawSprite x y n => exact Pattern.drawSprite x y n
  | keyIsPressed x => exact Pattern.keyIsPressed x
  | keyIsntPressed x => exact Pattern.keyIsntPressed x
  | readDelayTimer x => exact Pattern.readDelayTimer x
  | awaitKeyPress x => exact Pattern.awaitKeyPress x
  | setDelayTimer x => exact Pattern.setDelayTimer x
  | setSoundTimer x => exact Pattern.setSoundTimer x
  | addAddressReg x => exact Pattern.addAddressReg x
  | addressKeySprite x => exact Pattern.addressKeySprite x
  | storeBCDAtAddress x => exact Pattern.storeBCDAtAddress x
  | storeRegisters x => exact Pattern.storeRegisters x
  | loadRegisters x => exact Pattern.loadRegisters x
  | unknown raw => exact Pattern.unknown raw

theorem exists_row_of_named {strict : Bool} {w : Word} (hw : ¬ isUnknownWord strict w = true) :
    ∃ row ∈ opcodeTable strict, rowMatches row w = true := by
  obtain ⟨-, htag, hwf, henc | ⟨rfl, hf | hf⟩⟩ | ⟨hw', -⟩ := decodeWord_answer strict w
  · obtain ⟨row, hrow, -, hm⟩ := pattern _ strict hwf htag
    exact ⟨row, hrow, henc ▸ hm⟩
  · exact ⟨(0xF000, 0x5000, 6), by decide, rowMatches_of_tag_ne (by decide) ((mask_family w).trans (hf ▸ rfl))⟩
  · exact ⟨(0xF000, 0x9000, 7), by decide, rowMatches_of_tag_ne (by decide) ((mask_family w).trans (hf ▸ rfl))⟩
  · exact absurd hw' hw

/-- Settles O5: a word's tag is the tag of any row it matches, and the rows have different tags; a word no row matches
is in R89's table. -/
theorem decodeFollowsTheOpcodeMap : Obligations.DecodeFollowsTheOpcodeMap := by
  intro strict w
  refine ⟨fun row hrow row' hrow' h h' => ?_, fun row => decodeWord_tag_of_rowMatches, fun hnone => ?_⟩
  · have htag : row.2.2 = row'.2.2 :=
      (decodeWord_tag_of_rowMatches hrow h).symm.trans (decodeWord_tag_of_rowMatches hrow' h')
    exact List.inj_on_of_nodup_map (opcodeTable_tags_nodup strict) hrow hrow' htag
  · refine (unknownIsExactlyTheListedWords strict w w).2 ⟨?_, rfl⟩
    by_contra hw
    obtain ⟨row, hrow, hm⟩ := exists_row_of_named hw
    simp [hnone row hrow] at hm

end Sys2Proof
end

section
/-! PROOFS. The step around its instruction (R110, R111, R114): a step as the execution of the fetched instruction, the
timers at its end, and runs of ticks or of steps that all change the state in one and the same way. -/

namespace Sys2Proof.Machine

/-! ### One step -/

/-- Where the fetch is in bounds, the step is the outcome of the fetched instruction, ended where it succeeds. -/
theorem step_eq_mapNext {s : State} (hPC : s.PC.toNat < 4095) :
    step s = mapNext State.endStep (exec (fetchedInstr s) s.beginStep) := by
  have hf : fetchWord s = .ok (wordAtPC s) := fetchWord_eq_ok.2 ⟨hPC, rfl⟩
  simp only [step, hf, fetchedInstr]
  cases exec (decodeWord s.params.strict59 (wordAtPC s)) s.beginStep <;> rfl

theorem step_next_of_exec {i : Instr} {s t : State} (hPC : s.PC.toNat < 4095) (hi : fetchedInstr s = i)
    (h : exec i s.beginStep = .next t) : step s = .next t.endStep := by
  rw [step_eq_mapNext hPC, hi, h, mapNext]

theorem step_fault_of_exec {i : Instr} {s : State} {f : Fault} (hPC : s.PC.toNat < 4095) (hi : fetchedInstr s = i)
    (h : exec i s.beginStep = .fault f) : step s = .fault f := by
  rw [step_eq_mapNext hPC, hi, h, mapNext]

theorem frame_beginStep (s : State) : Frame (· = .events) s s.beginStep := by
  intro f hf
  cases f with
  | events => exact absurd rfl hf
  | _ => rfl

theorem exec_params {i : Instr} {s t : State} (h : exec i s = .next t) : t.params = s.params :=
  exec_frame h .params (by cases i <;> simp)

theorem endStep_timers_perStep {s : State} (h : s.params.tickMode = .perStep) :
    s.endStep.DT.toNat = s.DT.toNat - 1 ∧ s.endStep.ST.toNat = s.ST.toNat - 1 := by
  simp [State.endStep_perStep s h]

theorem endStep_timers_external {s : State} (h : s.params.tickMode = .external) :
    s.endStep.DT = s.DT ∧ s.endStep.ST = s.ST := by
  simp [State.endStep_external s h]

/-- Settles O7: the step is the instruction's outcome, and `endStep` counts and ticks by the parameters the instruction
left as they were. -/
theorem stepRunsTheDecodedInstruction : Obligations.StepRunsTheDecodedInstruction := by
  intro s i hPC hi
  refine ⟨⟨rfl, frame_beginStep s⟩, fun t ht => ?_, fun f hf => step_fault_of_exec hPC hi hf⟩
  have hparams : t.params = s.params := exec_params (s := s.beginStep) ht
  exact ⟨t.endStep, step_next_of_exec hPC hi ht, State.endStep_cycles t,
    fun hm => endStep_timers_perStep (hparams ▸ hm), fun hm => endStep_timers_external (hparams ▸ hm), frame_endStep t⟩

/-- Settles O38: each of the three instructions has a next state by its own rule, and the tick follows it. -/
theorem timerSetIsTickedInTheSameStep : Obligations.TimerSetIsTickedInTheSameStep := by
  intro x s hPC hmode
  refine ⟨fun hi => ?_, fun hi => ?_, fun hi => ?_⟩
  · obtain ⟨hDT, hST⟩ := endStep_timers_perStep (s := (s.beginStep.writeDT (s.readV x)).advance) hmode
    exact ⟨_, step_next_of_exec hPC hi rfl, hDT, hST⟩
  · obtain ⟨hDT, hST⟩ := endStep_timers_perStep (s := (s.beginStep.writeST (s.readV x)).advance) hmode
    exact ⟨_, step_next_of_exec hPC hi rfl, hST, hDT⟩
  · obtain ⟨hDT, -⟩ := endStep_timers_perStep (s := (s.beginStep.writeV x s.DT).advance) hmode
    exact ⟨_, step_next_of_exec hPC hi rfl, by simp, hDT⟩

/-! ### The same change made again and again -/

theorem frame_iterate {w : Field → Prop} {g : State → State} (hg : ∀ s, Frame w s (g s)) (k : Nat) (s : State) :
    Frame w s (g^[k] s) := by
  induction k generalizing s with
  | zero => exact Frame.refl w s
  | succ k ih => exact (hg s).trans (ih (g s))

/-- Steps that each make the change `g` in the states of `P`, which it does not leave, are `g` iterated. -/
theorem run_eq_iterate {P : State → Prop} {g : State → State} (hstep : ∀ s, P s → step s = .next (g s))
    (hkeep : ∀ s, P s → P (g s)) (k : Nat) {s : State} (hs : P s) :
    Host.Core.run Sys2Proof.core k s = .next (g^[k] s) := by
  induction k generalizing s with
  | zero => rfl
  | succ k ih =>
    have hone : Sys2Proof.core.step s = .next (g s) := hstep s hs
    simp only [Host.Core.run, hone]
    exact ih (hkeep s hs)

/-- Settles O39: a tick takes the predecessor of each timer, so `k` ticks take the `k`-th. -/
theorem timerCountsDownToZero : Obligations.TimerCountsDownToZero := by
  intro k s
  have hDT : Function.Semiconj (fun s : State => s.DT.toNat) tick Nat.pred := fun s => tickTimer_toNat s.DT
  have hST : Function.Semiconj (fun s : State => s.ST.toNat) tick Nat.pred := fun s => tickTimer_toNat s.ST
  exact ⟨(hDT.iterate_right k s).trans (Nat.pred_iterate _ k), (hST.iterate_right k s).trans (Nat.pred_iterate _ k),
    frame_iterate frame_tick k s⟩

/-! ### Steps whose instruction changes nothing -/

/-- What a step makes of a state its instruction leaves as it is. -/
def State.idleStep (s : State) : State := s.beginStep.endStep

@[simp] theorem State.idleStep_PC (s : State) : s.idleStep.PC = s.PC := by
  simp [State.idleStep]

@[simp] theorem fetchedInstr_idleStep (s : State) : fetchedInstr s.idleStep = fetchedInstr s := by
  simp [State.idleStep, fetchedInstr, wordAtPC]

theorem frame_idleStep (s : State) : Frame (· ∈ [.DT, .ST, .cycles, .events]) s s.idleStep :=
  ((frame_beginStep s).mono (by simp)).trans ((frame_endStep _).mono (by simp))

theorem idleStep_iterate_cycles (k : Nat) (s : State) : (State.idleStep^[k] s).cycles = s.cycles + k := by
  have hone : Function.Semiconj State.cycles State.idleStep Nat.succ := fun s => State.endStep_cycles s.beginStep
  exact (hone.iterate_right k s).trans (Nat.succ_iterate _ k)

/-- The step at `s` executes a Jump to its own address. -/
def AtSelfJump (s : State) : Prop := s.PC.toNat < 4095 ∧ fetchedInstr s = .jump (s.PC.setWidth 12)

/-- Where a word can be fetched, the address of a Jump holds all of `PC`. -/
theorem zext16_setWidth_PC {s : State} (hPC : s.PC.toNat < 4095) : zext16 (s.PC.setWidth 12) = s.PC := by
  refine BitVec.eq_of_toNat_eq ((zext16_toNat _ (by decide)).trans ?_)
  rw [BitVec.toNat_setWidth, Nat.mod_eq_of_lt (by omega)]

theorem AtSelfJump.step_eq {s : State} (h : AtSelfJump s) : step s = .next s.idleStep := by
  obtain ⟨hPC, hi⟩ := h
  refine step_next_of_exec hPC hi (t := s.beginStep) ?_
  rw [exec, execJump, zext16_setWidth_PC hPC]
  rfl

theorem AtSelfJump.idleStep {s : State} (h : AtSelfJump s) : AtSelfJump s.idleStep := by
  simpa [AtSelfJump] using h

/-- Settles O41: a step of a Jump to itself is an idle step, after which the same Jump is fetched. -/
theorem selfJumpIsAFixedPoint : Obligations.SelfJumpIsAFixedPoint := fun k s hPC hi =>
  ⟨_, run_eq_iterate (fun _ => AtSelfJump.step_eq) (fun _ => AtSelfJump.idleStep) k ⟨hPC, hi⟩,
    idleStep_iterate_cycles k s, frame_iterate frame_idleStep k s⟩

end Sys2Proof.Machine
end

section
/-! PROOFS. Control flow (R130 to R138): the jumps and skips, one call and one return, and calls nested as deep as they
fit; and who writes the stack, the timers and what belongs to the host. -/

namespace Sys2Proof.Machine

/-! ### Jumps and skips -/

/-- Settles O11: a Jump sets `PC`, and an address of 12 bits is kept by the zero extension. -/
theorem jumpSetsPC : Obligations.JumpSetsPC := fun nnn s =>
  ⟨_, rfl, zext16_toNat nnn (by decide), frame_setPC s _⟩

/-- The sum of an address and a register is below 2¹³, so 16 bits hold it. -/
theorem zext16_add_zext16_toNat (nnn : Lit12) (v : Byte) :
    (zext16 nnn + zext16 v).toNat = nnn.toNat + v.toNat := by
  have hn : (zext16 nnn).toNat = nnn.toNat := zext16_toNat nnn (by decide)
  have hv : (zext16 v).toNat = v.toNat := zext16_toNat v (by decide)
  rw [BitVec.toNat_add_of_lt (by omega), hn, hv]

/-- Settles O12: JumpIndirect sets `PC` to a sum that does not wrap. -/
theorem jumpIndirectAddsV0 : Obligations.JumpIndirectAddsV0 := fun nnn s =>
  ⟨_, rfl, zext16_add_zext16_toNat nnn (s.readV 0), frame_setPC s _⟩

theorem skipIf_beq_PC (s : State) (a b : Byte) :
    (s.skipIf (a == b)).PC = if a = b then s.PC + 4 else s.PC + 2 := by
  simp only [State.skipIf_PC, beq_iff_eq]

theorem skipIf_bne_PC (s : State) (a b : Byte) :
    (s.skipIf (a != b)).PC = if a = b then s.PC + 2 else s.PC + 4 := by
  simp only [State.skipIf_PC, bne_iff_ne, ne_eq, ite_not]

/-- Settles O16: each skip is a `skipIf`, which sets `PC` alone, on an equality or its negation. -/
theorem skipsCompareAndAdvance : Obligations.SkipsCompareAndAdvance := fun _ _ _ s =>
  ⟨⟨_, rfl, skipIf_beq_PC s _ _, frame_setPC s _⟩, ⟨_, rfl, skipIf_bne_PC s _ _, frame_setPC s _⟩,
    ⟨_, rfl, skipIf_beq_PC s _ _, frame_setPC s _⟩, ⟨_, rfl, skipIf_bne_PC s _ _, frame_setPC s _⟩⟩

/-! ### One call and one return -/

section
variable {s : State}

theorem exec_call_of_fits (nnn : Lit12) (hd : s.depth.val < 16) :
    exec (.call nnn) s = .next ({ s with
      stack := s.stack.set s.depth.val (s.PC + 2), depth := ⟨s.depth.val + 1, by omega⟩ }.setPC (zext16 nnn)) := by
  rw [exec, execCall, push_ok s _ hd]

theorem exec_call_of_full (nnn : Lit12) (hd : s.depth.val = 16) :
    exec (.call nnn) s = .fault (.stackOverflow s.PC) := by
  rw [exec, execCall, push_full s _ hd]
  rfl

theorem exec_returnFromSub_of_nonempty (hd : s.depth.val ≠ 0) :
    exec .returnFromSub s = .next
      ({ s with depth := ⟨s.depth.val - 1, by omega⟩ }.setPC (s.stack[s.depth.val - 1]'(by omega))) := by
  rw [exec, execReturnFromSub, pop_ok s hd]

theorem exec_returnFromSub_of_empty (hd : s.depth.val = 0) :
    exec .returnFromSub s = .fault (.stackUnderflow s.PC) := by
  rw [exec, execReturnFromSub, pop_empty s hd]
  rfl

end

/-- Settles O13: a push that fits, then a jump; a full stack is the fault. -/
theorem callPushesTheReturnAddress : Obligations.CallPushesTheReturnAddress := by
  intro nnn s
  refine ⟨fun hd => ?_, exec_call_of_full nnn⟩
  have hcall := exec_call_of_fits nnn hd
  refine ⟨_, hcall, Vector.getElem_set_self hd, rfl, zext16_toNat nnn (by decide), (exec_frame hcall).mono ?_⟩
  rintro f (⟨k, hk, rfl⟩ | rfl | rfl)
  · obtain rfl : k = ⟨s.depth.val, hd⟩ := Fin.ext hk
    simp
  · simp
  · simp

/-- Settles O14: a pop from a stack that holds an entry goes to `PC`; an empty stack is the fault. -/
theorem returnPopsIntoPC : Obligations.ReturnPopsIntoPC := by
  intro s
  refine ⟨fun hd => ?_, exec_returnFromSub_of_empty⟩
  have hret := exec_returnFromSub_of_nonempty hd
  exact ⟨_, hret, rfl, rfl, (exec_frame hret).mono (by simp)⟩

/-! ### Calls nested as deep as they fit, and their returns -/

section
variable {i : Instr} {is : List Instr} {s t : State}

theorem execAll_cons_of_next (h : exec i s = .next t) : execAll (i :: is) s = execAll is t := by
  rw [execAll, h]

theorem execAll_cons_of_fault {f : Fault} (h : exec i s = .fault f) : execAll (i :: is) s = .fault f := by
  rw [execAll, h]

theorem execAll_append_of_next {js : List Instr} (h : execAll is s = .next t) :
    execAll (is ++ js) s = execAll js t := by
  induction is generalizing s with
  | nil =>
    cases h
    rfl
  | cons i is ih =>
    cases hi : exec i s with
    | next u =>
      rw [execAll_cons_of_next hi] at h
      rw [List.cons_append, execAll_cons_of_next hi, ih h]
    | fault f | refused r => simp [execAll, hi] at h

end

/-- The call stacks are the same: as deep, with the same live entries; the entries no rule reads (R33) may differ. -/
def SameLiveStack (s t : State) : Prop :=
  t.depth = s.depth ∧ ∀ k : Fin 16, k.val < s.depth.val → t.stack[k.val] = s.stack[k.val]

/-- A return that finds the stack a call left comes back behind the call and leaves the stack the call found. -/
theorem return_undoes_call {nnn : Lit12} {s t u : State} (hcall : exec (.call nnn) s = .next t)
    (hu : SameLiveStack t u) : ∃ v, exec .returnFromSub u = .next v ∧ v.PC = s.PC + 2 ∧ SameLiveStack s v := by
  obtain ⟨hd, rfl⟩ := execCall_eq_next hcall
  obtain ⟨hdepth, hstack⟩ := hu
  simp only [State.setPC_depth, State.setPC_stack] at hdepth hstack
  have hval : u.depth.val = s.depth.val + 1 := congrArg Fin.val hdepth
  have htop : u.stack[s.depth.val] = s.PC + 2 := by
    simpa using hstack ⟨s.depth.val, hd⟩ (Nat.lt_succ_self _)
  refine ⟨_, exec_returnFromSub_of_nonempty (by omega), ?_, Fin.ext (by simp [hval]), fun k hk => ?_⟩
  · simpa [hval] using htop
  · have hne : s.depth.val ≠ k.val := by omega
    exact (hstack k (Nat.lt_succ_of_lt hk)).trans (Vector.getElem_set_ne hd _ hne)

/-- By induction on the calls: the last return is that of the first call, which finds the stack as that call left it. -/
theorem returns_undo_calls (targets : List Lit12) (s : State) (hfit : s.depth.val + targets.length ≤ 16) :
    ∃ t u, execAll (targets.map .call) s = .next t ∧ t.depth.val = s.depth.val + targets.length ∧
      execAll (List.replicate targets.length .returnFromSub) t = .next u ∧ SameLiveStack s u ∧
      (targets ≠ [] → u.PC = s.PC + 2) := by
  induction targets generalizing s with
  | nil => exact ⟨s, s, rfl, rfl, rfl, ⟨rfl, fun _ _ => rfl⟩, fun h => absurd rfl h⟩
  | cons nnn targets ih =>
    rw [List.length_cons] at hfit ⊢
    obtain ⟨s', hcall, -, hdepth', -, -⟩ := (callPushesTheReturnAddress nnn s).1 (by omega)
    obtain ⟨t, u, hcalls, hdepth, hrets, hlive, -⟩ := ih s' (by omega)
    obtain ⟨v, hret, hPC, hv⟩ := return_undoes_call hcall hlive
    refine ⟨t, v, (execAll_cons_of_next hcall).trans hcalls, by omega, ?_, hv, fun _ => hPC⟩
    rw [List.replicate_succ', execAll_append_of_next hrets, execAll_cons_of_next hret]
    rfl

theorem calls_overflow (targets : List Lit12) (s : State) (hover : 16 < s.depth.val + targets.length) :
    ∃ pc, execAll (targets.map .call) s = .fault (.stackOverflow pc) := by
  induction targets generalizing s with
  | nil =>
    rw [List.length_nil] at hover
    omega
  | cons nnn targets ih =>
    rw [List.length_cons] at hover
    by_cases hd : s.depth.val < 16
    · obtain ⟨s', hcall, -, hdepth, -, -⟩ := (callPushesTheReturnAddress nnn s).1 hd
      obtain ⟨pc, hpc⟩ := ih s' (by omega)
      exact ⟨pc, (execAll_cons_of_next hcall).trans hpc⟩
    · exact ⟨s.PC, execAll_cons_of_fault (exec_call_of_full nnn (by omega))⟩

/-- Settles O15: the returns undo the calls where all of these fit, and where they do not one of them overflows. -/
theorem nestedCallsReturnInReverse : Obligations.NestedCallsReturnInReverse := by
  intro s targets hne
  refine ⟨fun hfit => ?_, calls_overflow targets s⟩
  obtain ⟨t, u, hcalls, hdepth, hrets, ⟨hd, hlive⟩, hPC⟩ := returns_undo_calls targets s hfit
  exact ⟨t, u, hcalls, hdepth, hrets, hPC hne, hd, hlive⟩

/-! ### Who writes the stack and the timers, and what no instruction writes -/

section
variable {i : Instr} {s t : State}

theorem mayWrite_stack_cases {k : Fin 16} (h : mayWrite i s (.stack k)) : ∃ nnn, i = .call nnn := by
  cases i with
  | call nnn => exact ⟨nnn, rfl⟩
  | _ => simp at h

theorem mayWrite_depth_cases (h : mayWrite i s .depth) : (∃ nnn, i = .call nnn) ∨ i = .returnFromSub := by
  cases i with
  | call nnn => exact .inl ⟨nnn, rfl⟩
  | returnFromSub => exact .inr rfl
  | _ => simp at h

theorem mayWrite_DT_cases (h : mayWrite i s .DT) : ∃ x, i = .setDelayTimer x := by
  cases i with
  | setDelayTimer x => exact ⟨x, rfl⟩
  | _ => simp at h

theorem mayWrite_ST_cases (h : mayWrite i s .ST) : ∃ x, i = .setSoundTimer x := by
  cases i with
  | setSoundTimer x => exact ⟨x, rfl⟩
  | _ => simp at h

theorem exec_KEY (h : exec i s = .next t) : t.KEY = s.KEY :=
  Vector.ext fun k hk => exec_frame h (.key ⟨k, hk⟩) (by cases i <;> simp)

theorem exec_cycles (h : exec i s = .next t) : t.cycles = s.cycles :=
  exec_frame h .cycles (by cases i <;> simp)

theorem exists_stack_entry_changed (h : t.stack ≠ s.stack) : ∃ k : Fin 16, ¬ (Field.stack k).same s t := by
  by_contra hsame
  rw [not_exists_not] at hsame
  exact h (Vector.ext fun k hk => hsame ⟨k, hk⟩)

end

/-- Settles O48: a part that changed is one the instruction may write; the keypad, the cycle count and the parameters
are among those of none. -/
theorem whoWritesStackTimersAndKeypad : Obligations.WhoWritesStackTimersAndKeypad := by
  intro i s t h
  refine ⟨fun hstack => ?_, fun hdepth => mayWrite_depth_cases (mayWrite_of_changed h hdepth),
    fun hDT => mayWrite_DT_cases (mayWrite_of_changed h hDT), fun hST => mayWrite_ST_cases (mayWrite_of_changed h hST),
    exec_KEY h, exec_cycles h, exec_params h⟩
  obtain ⟨k, hk⟩ := exists_stack_entry_changed hstack
  exact mayWrite_stack_cases (mayWrite_of_changed h hk)

end Sys2Proof.Machine
end

section
/-! PROOFS. Register and ALU instructions (R150 to R163, R170): the bitwise and immediate operations, the five flagged
ones in either order of their two writes (R156), and the random number. -/

namespace Sys2Proof.Machine

/-! ### One register written, then the advance -/

theorem frame_writeV_advance (s : State) (x : Reg) (v : Byte) :
    Frame (· ∈ [.V x, .PC]) s (s.writeV x v).advance :=
  ((frame_writeV s x v).mono (by simp)).thenAdvance (by simp)

/-- Settles O17: each operation writes its value to `Vx`, advances, and does nothing else. -/
theorem immediateAndBitwiseResults : Obligations.ImmediateAndBitwiseResults := fun x _ _ s =>
  have hread (v : Byte) : (s.writeV x v).advance.readV x = v := State.readV_writeV_same s x v
  ⟨⟨_, rfl, hread _, rfl, frame_writeV_advance s x _⟩,
    ⟨_, rfl, (congrArg BitVec.toNat (hread _)).trans (BitVec.toNat_add _ _), rfl, frame_writeV_advance s x _⟩,
    ⟨_, rfl, hread _, rfl, frame_writeV_advance s x _⟩, ⟨_, rfl, hread _, rfl, frame_writeV_advance s x _⟩,
    ⟨_, rfl, hread _, rfl, frame_writeV_advance s x _⟩, ⟨_, rfl, hread _, rfl, frame_writeV_advance s x _⟩⟩

/-! ### The random number -/

theorem frame_randomNumber (s : State) (x : Reg) (v : Byte) :
    Frame (· ∈ [.V x, .draws, .PC]) s (s.writeV x v).countDraw.advance :=
  (((frame_writeV s x v).mono (by simp)).trans ((frame_countDraw _).mono (by simp))).thenAdvance (by simp)

/-- Settles O23: the draw of the opaque byte is one of the draws of an arbitrary byte. -/
theorem randomNumberMasksTheDraw : Obligations.RandomNumberMasksTheDraw := fun x kk s =>
  have hread (r : Byte) : (s.writeV x (r &&& kk)).countDraw.advance.readV x = r &&& kk :=
    State.readV_writeV_same s x (r &&& kk)
  ⟨⟨_, rfl, hread _, rfl, rfl, frame_randomNumber s x _⟩, fun r => ⟨_, rfl, hread r, rfl, frame_randomNumber s x _⟩⟩

/-! ### Results and flags as numbers -/

theorem byte_sub_toNat (a b : Byte) : (a - b).toNat = (256 + a.toNat - b.toNat) % 256 := by
  rw [BitVec.toNat_sub]
  congr 1
  omega

theorem byte_shiftLeft_one_toNat (v : Byte) : (v <<< 1).toNat = v.toNat * 2 % 256 := by
  rw [BitVec.toNat_shiftLeft, Nat.shiftLeft_eq]

theorem byte_ushiftRight_one_toNat (v : Byte) : (v >>> 1).toNat = v.toNat / 2 := by
  rw [BitVec.toNat_ushiftRight, Nat.shiftRight_eq_div_pow]

theorem flagByte_carryOf_toNat (a b : Byte) :
    (flagByte (carryOf a b)).toNat = if a.toNat + b.toNat > 255 then 1 else 0 := by
  simp [carryOf]

theorem flagByte_noBorrow_toNat (a b : Byte) :
    (flagByte (noBorrow a b)).toNat = if b.toNat ≤ a.toNat then 1 else 0 := by
  simp [noBorrow]

/-- A flag that is bit `k` of a byte, as a number. -/
theorem flagByte_getLsbD_toNat (v : Byte) (k : Nat) : (flagByte (v.getLsbD k)).toNat = v.toNat / 2 ^ k % 2 := by
  rw [flagByte_toNat, ← BitVec.testBit_toNat, Nat.testBit_eq_decide_div_mod_eq]
  rcases Nat.mod_two_eq_zero_or_one (v.toNat / 2 ^ k) with h | h <;> simp [h]

theorem flagByte_lowBit_toNat (v : Byte) : (flagByte (lowBit v)).toNat = v.toNat % 2 := by
  rw [lowBit, flagByte_getLsbD_toNat, Nat.pow_zero, Nat.div_one]

theorem flagByte_highBit_toNat (v : Byte) : (flagByte (highBit v)).toNat = v.toNat / 128 := by
  rw [highBit, flagByte_getLsbD_toNat]
  have hv : v.toNat < 256 := v.isLt
  omega

/-! ### The flagged operations -/

section
variable {s : State} {x : Reg} {r : Byte} {c : Bool} {result flag : Nat}

/-- `writeFlagged` meets the specification of the flagged write, in either order of the two writes. -/
theorem flaggedWrite_writeFlagged (hr : r.toNat = result) (hc : (flagByte c).toNat = flag) :
    FlaggedWrite s (writeFlagged s x r c).advance x result flag := by
  subst hr hc
  simp only [FlaggedWrite, State.readV_advance, readV_writeFlagged]
  refine ⟨fun hx => ?_, fun hx ho => ?_, fun hx ho => ?_⟩
  · simp [hx]
  · simp [ho]
  · simp [hx, ho]

theorem frame_writeFlagged_advance :
    Frame (· ∈ [.V x, .V Reg.VF, .PC]) s (writeFlagged s x r c).advance :=
  ((frame_writeFlagged s x r c).mono (by simp)).thenAdvance (by simp)

/-- What the five flagged operations share: an instruction that is a flagged write and the advance completes, with the
result and the flag where R156 puts them, `PC + 2`, and nothing else changed. -/
theorem exec_flagged {i : Instr} (h : exec i s = .next (writeFlagged s x r c).advance) (hr : r.toNat = result)
    (hc : (flagByte c).toNat = flag) :
    ∃ t, exec i s = .next t ∧ FlaggedWrite s t x result flag ∧ t.PC = s.PC + 2 ∧
      Frame (· ∈ [.V x, .V Reg.VF, .PC]) s t :=
  ⟨_, h, flaggedWrite_writeFlagged hr hc, congrArg (· + 2) (writeFlagged_PC s x r c), frame_writeFlagged_advance⟩

end

/-- Settles O18: a flagged write of the sum and the carry. -/
theorem addRegSumAndCarry : Obligations.AddRegSumAndCarry := fun _ _ _ =>
  exec_flagged rfl (BitVec.toNat_add _ _) (flagByte_carryOf_toNat _ _)

/-- Settles O19: a flagged write of the difference and the absence of a borrow. -/
theorem subRegDifferenceAndNoBorrow : Obligations.SubRegDifferenceAndNoBorrow := fun _ _ _ =>
  exec_flagged rfl (byte_sub_toNat _ _) (flagByte_noBorrow_toNat _ _)

/-- Settles O20: SubReg's flagged write with the operands exchanged. -/
theorem subRegRevDifferenceAndNoBorrow : Obligations.SubRegRevDifferenceAndNoBorrow := fun _ _ _ =>
  exec_flagged rfl (byte_sub_toNat _ _) (flagByte_noBorrow_toNat _ _)

theorem shiftOperand_toNat {s : State} {x y : Reg} {src : Nat}
    (hvx : s.params.shiftSource = .vx → src = (s.readV x).toNat)
    (hvy : s.params.shiftSource = .vy → src = (s.readV y).toNat) : (shiftOperand s x y).toNat = src := by
  unfold shiftOperand
  cases hp : s.params.shiftSource with
  | vx => exact (hvx hp).symm
  | vy => exact (hvy hp).symm

/-- Settles O22: flagged writes of the shifted source and of its lowest or highest bit. -/
theorem shiftsResultAndShiftedOutBit : Obligations.ShiftsResultAndShiftedOutBit := by
  intro x y s src hvx hvy
  obtain rfl := shiftOperand_toNat hvx hvy
  exact ⟨exec_flagged rfl (byte_ushiftRight_one_toNat _) (flagByte_lowBit_toNat _),
    exec_flagged rfl (byte_shiftLeft_one_toNat _) (flagByte_highBit_toNat _)⟩

/-! ### The two subtractions together (R163) -/

/-- Of `a − b` and `b − a` at least one borrows nothing, and both only where `a = b`. -/
theorem noBorrow_flags_sum (a b : Byte) :
    (if b.toNat ≤ a.toNat then 1 else 0) + (if a.toNat ≤ b.toNat then 1 else 0) = if a = b then 2 else 1 := by
  have heq : a = b ↔ a.toNat = b.toNat := BitVec.toNat_inj.symm
  simp only [heq]
  split_ifs <;> omega

/-- Settles O21: from what each subtraction alone writes (O19, O20), by arithmetic on the two operands. -/
theorem subtractionsWrapAroundIdentity : Obligations.SubtractionsWrapAroundIdentity := by
  intro x y s t u hx ht hu
  obtain ⟨t', ht', ⟨hsub, -⟩, -⟩ := subRegDifferenceAndNoBorrow x y s
  obtain ⟨u', hu', ⟨hrev, -⟩, -⟩ := subRegRevDifferenceAndNoBorrow x y s
  cases ht.symm.trans ht'
  cases hu.symm.trans hu'
  obtain ⟨hsubR, hsubF⟩ := hsub hx
  obtain ⟨hrevR, hrevF⟩ := hrev hx
  have ha : (s.readV x).toNat < 256 := (s.readV x).isLt
  have hb : (s.readV y).toNat < 256 := (s.readV y).isLt
  rw [hsubR, hrevR, hsubF, hrevF]
  exact ⟨by omega, noBorrow_flags_sum _ _⟩

end Sys2Proof.Machine
end

section
/-! PROOFS. The address register and the transfers between registers and memory (R180 to R187). -/

namespace Sys2Proof.Machine

/-! ### Instructions that only load `I` -/

theorem frame_writeI_advance (s : State) (v : Word) : Frame (· ∈ [.I, .PC]) s (s.writeI v).advance :=
  ((frame_writeI s v).mono (by simp)).thenAdvance (by simp)

/-- Settles O24: an address of 12 bits is kept by the zero extension. -/
theorem setAddressRegLoadsI : Obligations.SetAddressRegLoadsI := fun nnn s =>
  ⟨_, rfl, zext16_toNat nnn (by decide), rfl, frame_writeI_advance s _⟩

/-- The address of a glyph is at most 4095 + 4095 · 15, so 16 bits hold it (log entry 3). -/
theorem glyphAddress_toNat (base stride : BitVec 12) (d : Fin 16) :
    (glyphAddress base stride d).toNat = base.toNat + stride.toNat * d.val := by
  have hbase := base.isLt
  have hglyph : stride.toNat * d.val ≤ 4095 * 15 :=
    Nat.mul_le_mul (Nat.le_of_lt_succ stride.isLt) (Nat.le_of_lt_succ d.isLt)
  exact Nat.mod_eq_of_lt (by omega)

theorem glyphAddress_lowNibble_toNat (base stride : BitVec 12) (v : Byte) :
    (glyphAddress base stride (lowNibble v)).toNat = base.toNat + stride.toNat * (v.toNat % 16) := by
  rw [glyphAddress_toNat, lowNibble_val]

/-- Settles O26: the machine's own font is one of the fonts a platform may supply. -/
theorem addressKeySpritePointsAtTheGlyph : Obligations.AddressKeySpritePointsAtTheGlyph := fun x s =>
  have hfont (base stride : BitVec 12) : ∃ t, addressKeySpriteWith base stride x s = .next t ∧
      t.I.toNat = base.toNat + stride.toNat * ((s.readV x).toNat % 16) ∧ t.PC = s.PC + 2 ∧
      Frame (· ∈ [.I, .PC]) s t :=
    ⟨_, rfl, glyphAddress_lowNibble_toNat base stride (s.readV x), rfl, frame_writeI_advance s _⟩
  ⟨hfont Config.fontBase Config.glyphStride, hfont⟩

/-! ### An increment of `I` by a register -/

section
variable {x : Reg} {s : State}

theorem exec_addAddressReg_of_ok {v : Word} (h : addToI s (s.readV x).toNat = .ok (s.writeI v)) :
    exec (.addAddressReg x) s = .next (s.writeI v).advance := by
  rw [exec, execAddAddressReg, h]

theorem exec_addAddressReg_of_error {f : Fault} (h : addToI s (s.readV x).toNat = .error f) :
    exec (.addAddressReg x) s = .fault f := by
  rw [exec, execAddAddressReg, h]
  rfl

end

/-- Settles O25: the three things `addToI` does, by the size of the sum and the value of `I_OVERFLOW`. -/
theorem addAddressRegSumOrOverflow : Obligations.AddAddressRegSumOrOverflow := by
  rintro x s _ rfl
  refine ⟨fun hfits => ?_, fun hover hp => exec_addAddressReg_of_error (addToI_fault s _ hover hp),
    fun hover hp => ?_⟩
  · exact ⟨_, exec_addAddressReg_of_ok (addToI_fits s _ hfits), Nat.mod_eq_of_lt (by omega), rfl,
      frame_writeI_advance s _⟩
  · exact ⟨_, exec_addAddressReg_of_ok (addToI_wrap s _ hover hp), Nat.mod_mod _ _, rfl, frame_writeI_advance s _⟩

/-! ### The addresses and the bytes of a transfer -/

@[simp] theorem State.addrI_zero (s : State) : s.addrI 0 = s.I.toNat := rfl

/-- An address among the `n + 1` from `I` up is the one of some byte of the transfer. -/
theorem State.exists_addrI_eq {s : State} {a n : Nat} (hlo : s.I.toNat ≤ a) (hhi : a ≤ s.I.toNat + n) :
    ∃ k ≤ n, a = s.addrI k :=
  ⟨a - s.I.toNat, by omega, (Nat.add_sub_cancel' hlo).symm⟩

/-- Each byte of a `writeBytes` that succeeded is read back at its place. -/
theorem writeBytes_get {s t : State} {a : Nat} {bs : List Byte} (h : writeBytes s a bs = .ok t) {k : Nat}
    (hk : k < bs.length) : t.M.get (a + k) = bs.getD k 0 := by
  obtain ⟨-, m, rfl, -, hget⟩ := writeBytes_eq_ok h
  rw [hget, if_pos ⟨by omega, by omega⟩, Nat.add_sub_cancel_left]

/-- The increment after a transfer inside memory, which left `I` and the parameters as they were in `s`. -/
theorem applyLdstIncrement_incrementedI {s u : State} {x : Reg} (hfit : s.I.toNat + x.val < 4096) (hI : u.I = s.I)
    (hp : u.params = s.params) :
    ∃ v : Word, applyLdstIncrement u x = .ok (u.writeI v) ∧ IncrementedI s (u.writeI v).advance x := by
  rw [← hI] at hfit
  obtain ⟨v, hv, hincr⟩ := applyLdstIncrement_ok u x hfit
  rw [hI, hp] at hincr
  exact ⟨v, hv, hincr⟩

/-! ### StoreBCDAtAddress -/

section
variable {x : Reg} {s t : State}

theorem exec_storeBCDAtAddress_of_ok (h : writeBytes s s.I.toNat (bcdDigits (s.readV x)) = .ok t) :
    exec (.storeBCDAtAddress x) s = .next t.advance := by
  rw [exec, execStoreBCDAtAddress, State.addrI_zero, h]

theorem exec_storeBCDAtAddress_of_error {f : Fault}
    (h : writeBytes s s.I.toNat (bcdDigits (s.readV x)) = .error f) :
    exec (.storeBCDAtAddress x) s = .fault f := by
  rw [exec, execStoreBCDAtAddress, State.addrI_zero, h]
  rfl

theorem frame_storeBCDAtAddress (h : exec (.storeBCDAtAddress x) s = .next t) :
    Frame (fun f => f = .PC ∨ ∃ k < 3, f = .mem (s.addrI k)) s t := by
  refine (exec_frame h).mono ?_
  rintro f (⟨a, hlo, hhi, rfl⟩ | rfl)
  · obtain ⟨k, hk, rfl⟩ := State.exists_addrI_eq hlo hhi
    exact .inr ⟨k, by omega, rfl⟩
  · exact .inl rfl

end

/-- Settles O27: `writeBytes` of the three digits at `I`, which fit or do not; division of bytes is division of their
values. -/
theorem storeBCDWritesThreeDigits : Obligations.StoreBCDWritesThreeDigits := by
  intro x s
  refine ⟨fun hfit => ?_, fun hover => ?_⟩
  · obtain ⟨m, hm, -, -⟩ := writeBytes_ok s s.I.toNat (bcdDigits (s.readV x)) (.inr hfit)
    have hexec := exec_storeBCDAtAddress_of_ok hm
    have hdigit {k : Nat} (hk : k < 3) : m.get (s.I.toNat + k) = (bcdDigits (s.readV x)).getD k 0 :=
      writeBytes_get hm hk
    refine ⟨_, hexec, ?_, ?_, ?_, rfl, frame_storeBCDAtAddress hexec⟩
    · exact congrArg BitVec.toNat (hdigit (k := 0) (by decide))
    · exact congrArg BitVec.toNat (hdigit (k := 1) (by decide))
    · exact congrArg BitVec.toNat (hdigit (k := 2) (by decide))
  · exact exec_storeBCDAtAddress_of_error (writeBytes_error s _ _ ⟨List.cons_ne_nil _ _, Nat.lt_succ_of_le hover⟩)

/-! ### StoreRegisters -/

section
variable {x : Reg} {s t u : State}

theorem exec_storeRegisters_of_ok (hw : writeBytes s s.I.toNat (s.valuesUpTo x) = .ok u)
    (hi : applyLdstIncrement u x = .ok t) : exec (.storeRegisters x) s = .next t.advance := by
  rw [exec, execStoreRegisters, State.addrI_zero, hw]
  simp only [hi]

theorem exec_storeRegisters_of_error {f : Fault} (h : writeBytes s s.I.toNat (s.valuesUpTo x) = .error f) :
    exec (.storeRegisters x) s = .fault f := by
  rw [exec, execStoreRegisters, State.addrI_zero, h]
  rfl

theorem frame_storeRegisters (h : exec (.storeRegisters x) s = .next t) :
    Frame (fun f => f = .PC ∨ (f = .I ∧ s.params.ldstIncrement ≠ .none) ∨ ∃ k ≤ x.val, f = .mem (s.addrI k)) s t := by
  refine (exec_frame h).mono ?_
  rintro f (⟨a, hlo, hhi, rfl⟩ | ⟨hp, rfl⟩ | rfl)
  · obtain ⟨k, hk, rfl⟩ := State.exists_addrI_eq hlo hhi
    exact .inr (.inr ⟨k, hk, rfl⟩)
  · exact .inr (.inl ⟨rfl, hp⟩)
  · exact .inl rfl

end

/-- Settles O28: `writeBytes` of the registers at `I`, which fit or do not, and where they do the increment fits too. -/
theorem storeRegistersWritesMemory : Obligations.StoreRegistersWritesMemory := by
  intro x s
  have hlen := valuesUpTo_length s x
  refine ⟨fun hfit => ?_, fun hover => ?_⟩
  · obtain ⟨m, hm, -, -⟩ := writeBytes_ok s s.I.toNat (s.valuesUpTo x) (.inr (by rw [hlen]; exact hfit))
    obtain ⟨v, hv, hincr⟩ := applyLdstIncrement_incrementedI (u := { s with M := m }) hfit rfl rfl
    have hexec := exec_storeRegisters_of_ok hm hv
    refine ⟨_, hexec, fun k hk => ?_, hincr, rfl, frame_storeRegisters hexec⟩
    have hlt : k.val < (s.valuesUpTo x).length := hlen ▸ Nat.lt_succ_of_le hk
    exact (writeBytes_get hm hlt).trans (valuesUpTo_getD s x k hk 0)
  · have hne : s.valuesUpTo x ≠ [] := List.ne_nil_of_length_eq_add_one hlen
    exact exec_storeRegisters_of_error (writeBytes_error s _ _ ⟨hne, by rw [hlen]; exact Nat.lt_succ_of_le hover⟩)

/-! ### LoadRegisters -/

section
variable {x : Reg} {s t : State}

theorem exec_loadRegisters_of_ok {bs : List Byte} (hr : readBytes s s.I.toNat (x.val + 1) = .ok bs)
    (hi : applyLdstIncrement (s.loadV bs) x = .ok t) : exec (.loadRegisters x) s = .next t.advance := by
  rw [exec, execLoadRegisters, State.addrI_zero, hr]
  simp only [hi]

theorem exec_loadRegisters_of_error {f : Fault} (h : readBytes s s.I.toNat (x.val + 1) = .error f) :
    exec (.loadRegisters x) s = .fault f := by
  rw [exec, execLoadRegisters, State.addrI_zero, h]
  rfl

theorem frame_loadRegisters (h : exec (.loadRegisters x) s = .next t) :
    Frame (fun f => f = .PC ∨ (f = .I ∧ s.params.ldstIncrement ≠ .none) ∨ ∃ k ≤ x, f = .V k) s t := by
  refine (exec_frame h).mono ?_
  rintro f (hV | ⟨hp, rfl⟩ | rfl)
  · exact .inr (.inr hV)
  · exact .inr (.inl ⟨rfl, hp⟩)
  · exact .inl rfl

end

/-- A load of the bytes at `I` gives each register they reach the byte at its own address. -/
theorem readV_loadV_addrI (s : State) {n : Nat} {k : Reg} (hk : k.val < n) :
    (s.loadV ((List.range n).map fun j => s.M.get (s.I.toNat + j))).readV k = s.M.get (s.addrI k.val) := by
  simp [hk, State.addrI]

/-- Settles O29: `readBytes` at `I`, which is in bounds or not, and where it is the increment fits too. -/
theorem loadRegistersReadsMemory : Obligations.LoadRegistersReadsMemory := by
  intro x s
  refine ⟨fun hfit => ?_, fun hover => ?_⟩
  · have hread := readBytes_ok s s.I.toNat (x.val + 1) (.inr hfit)
    obtain ⟨v, hv, hincr⟩ :=
      applyLdstIncrement_incrementedI (u := s.loadV _) hfit (State.loadV_I s _) (State.loadV_params s _)
    have hexec := exec_loadRegisters_of_ok hread hv
    refine ⟨_, hexec, fun k hk => ?_, hincr, ?_, frame_loadRegisters hexec⟩
    · rw [State.readV_advance, State.readV_writeI, readV_loadV_addrI s (Nat.lt_succ_of_le hk)]
    · rw [State.advance_PC, State.writeI_PC, State.loadV_PC]
  · exact exec_loadRegisters_of_error (readBytes_error s _ _ ⟨Nat.succ_ne_zero _, Nat.lt_succ_of_le hover⟩)

/-! ### A load from where the registers were stored -/

/-- A store that completed was in bounds. -/
theorem storeRegisters_in_bounds {x : Reg} {s t : State} (h : exec (.storeRegisters x) s = .next t) :
    s.I.toNat + x.val < 4096 := by
  by_contra hover
  have hfault := (storeRegistersWritesMemory x s).2 (Nat.le_of_not_lt hover)
  exact nomatch h.symm.trans hfault

/-- Settles O30: the store left the registers where `I` still points (O28), and the load reads them there (O29). -/
theorem loadAfterStoreRestoresRegisters : Obligations.LoadAfterStoreRestoresRegisters := by
  intro x k s t u v hp hstore hM hI _ hload hk
  have hfit := storeRegisters_in_bounds hstore
  obtain ⟨t', hstore', hstored, ⟨hsameI, -⟩, -⟩ := (storeRegistersWritesMemory x s).1 hfit
  cases hstore.symm.trans hstore'
  have huI : u.I = s.I := hI.trans (hsameI hp)
  obtain ⟨v', hload', hloaded, -⟩ := (loadRegistersReadsMemory x u).1 (huI ▸ hfit)
  cases hload.symm.trans hload'
  calc v.readV k = u.M.get (u.addrI k.val) := hloaded k hk
    _ = t.M.get (s.addrI k.val) := by rw [hM, State.addrI, huI, State.addrI]
    _ = s.readV k := hstored k hk

end Sys2Proof.Machine
end

section
/-! PROOFS. The display, the keypad and the timers (R200 to R207): the requests to the display, the key skips, the three
timer accesses, AwaitKeyPress with a key and without, and runs of steps that wait for one. -/

namespace Sys2Proof.Machine

/-! ### Requests to the display -/

/-- Settles O33: ClearScreen emits its request, advances, and does nothing else. -/
theorem clearScreenEmitsClear : Obligations.ClearScreenEmitsClear := fun _ =>
  ⟨_, rfl, rfl, rfl, (exec_frame (i := .clearScreen) rfl).mono (by simp)⟩

section
variable {x y : Reg} {n : Count} {s : State}

/-- A sprite inside memory, or of no bytes (D14), is asked for with the bytes at `I`, whichever the answer. -/
theorem drawSpriteWith_of_fits (c : Bool) (hfit : n.val = 0 ∨ s.I.toNat + n.val ≤ 4096) :
    drawSpriteWith c x y n s = .next ((s.emit (.draw (s.readV x) (s.readV y)
      ((List.range n.val).map fun k => s.M.get (s.addrI k)))).writeV Reg.VF (flagByte c)).countDraw.advance := by
  rw [drawSpriteWith, State.addrI_zero, readBytes_ok s s.I.toNat n.val hfit]
  rfl

/-- A sprite that reaches past memory is not asked for. -/
theorem drawSpriteWith_of_exceeds (c : Bool) (hn : n.val ≠ 0) (hover : 4096 < s.I.toNat + n.val) :
    drawSpriteWith c x y n s = .fault (.outOfBoundsAccess s.PC (max s.I.toNat 4096)) := by
  rw [drawSpriteWith, State.addrI_zero, readBytes_error s s.I.toNat n.val ⟨hn, hover⟩]
  rfl

end

/-- Settles O34: the display's own answer is one of the two answers `drawSpriteWith` takes, and `VF` is written last. -/
theorem drawSpriteAsksTheDisplay : Obligations.DrawSpriteAsksTheDisplay := by
  intro x y n s
  refine ⟨fun hfit => ⟨?_, fun c => ?_⟩, drawSpriteWith_of_exceeds _⟩
  · have hexec : exec (.drawSprite x y n) s = .next _ := drawSpriteWith_of_fits (Config.freeCollision s.draws) hfit
    exact ⟨_, hexec, rfl, State.readV_writeV_same _ _ _, rfl, rfl, (exec_frame hexec).mono (by simp)⟩
  · exact ⟨_, drawSpriteWith_of_fits c hfit, State.readV_writeV_same _ _ _⟩

/-! ### The key skips and the timer accesses -/

theorem skipIf_not_PC (s : State) (c : Bool) : (s.skipIf (!c)).PC = if c = true then s.PC + 2 else s.PC + 4 := by
  cases c <;> rfl

/-- Settles O35: each skip is a `skipIf` on the flag of the key that the low nibble names, or on its negation. -/
theorem keySkipsReadTheKeypad : Obligations.KeySkipsReadTheKeypad := by
  intro x k s hk
  obtain rfl : k = lowNibble (s.readV x) := Fin.ext (hk.trans (lowNibble_val _).symm)
  exact ⟨⟨_, rfl, State.skipIf_PC s _, frame_setPC s _⟩, ⟨_, rfl, skipIf_not_PC s _, frame_setPC s _⟩⟩

/-- Settles O37: each access copies one byte between a timer and a register, advances, and does nothing else. -/
theorem timerReadsAndWrites : Obligations.TimerReadsAndWrites := fun x s =>
  ⟨⟨_, rfl, State.readV_writeV_same s x s.DT, rfl, frame_writeV_advance s x _⟩,
    ⟨_, rfl, rfl, rfl, (exec_frame (i := .setDelayTimer x) rfl).mono (by simp)⟩,
    ⟨_, rfl, rfl, rfl, (exec_frame (i := .setSoundTimer x) rfl).mono (by simp)⟩⟩

/-! ### AwaitKeyPress -/

section
variable {s : State}

theorem exec_awaitKeyPress_of_key {k : Key} (x : Reg) (h : s.lowestKey = some k) :
    exec (.awaitKeyPress x) s = .next (s.writeV x (BitVec.ofNat 8 k.val)).advance := by
  rw [exec, execAwaitKeyPress, h]

theorem exec_awaitKeyPress_of_no_key (x : Reg) (h : ∀ k : Key, s.key k = false) :
    exec (.awaitKeyPress x) s = .next s := by
  rw [exec, execAwaitKeyPress, (lowestKey_eq_none s).2 h]

end

theorem keyByte_toNat (k : Key) : (BitVec.ofNat 8 k.val).toNat = k.val :=
  Nat.mod_eq_of_lt (by omega)

/-- Settles O36: the scan of the keypad answers the lowest pressed key, or none, and each answer has its own effect. -/
theorem awaitKeyPressTakesTheLowestKey : Obligations.AwaitKeyPressTakesTheLowestKey := by
  refine fun x s => ⟨fun k hk hlow => ?_, exec_awaitKeyPress_of_no_key x⟩
  have hread := (congrArg BitVec.toNat (State.readV_writeV_same s x (BitVec.ofNat 8 k.val))).trans (keyByte_toNat k)
  exact ⟨_, exec_awaitKeyPress_of_key x ((lowestKey_eq_some s k).2 ⟨hk, hlow⟩), hread, rfl, frame_writeV_advance s x _⟩

/-! ### Waiting for a key -/

@[simp] theorem State.idleStep_params (s : State) : s.idleStep.params = s.params := by
  simp [State.idleStep]

@[simp] theorem State.key_idleStep (s : State) (k : Key) : s.idleStep.key k = s.key k := by
  simp [State.idleStep]

theorem idleStep_iterate_timers_perStep (k : Nat) {s : State} (h : s.params.tickMode = .perStep) :
    (State.idleStep^[k] s).DT.toNat = s.DT.toNat - k ∧ (State.idleStep^[k] s).ST.toNat = s.ST.toNat - k := by
  induction k generalizing s with
  | zero => exact ⟨rfl, rfl⟩
  | succ k ih =>
    have hone : s.idleStep.DT.toNat = s.DT.toNat - 1 ∧ s.idleStep.ST.toNat = s.ST.toNat - 1 :=
      endStep_timers_perStep (s := s.beginStep) h
    have hrest := ih (s := s.idleStep) (by simpa using h)
    rw [Function.iterate_succ_apply]
    omega

theorem idleStep_iterate_timers_external (k : Nat) {s : State} (h : s.params.tickMode = .external) :
    (State.idleStep^[k] s).DT = s.DT ∧ (State.idleStep^[k] s).ST = s.ST := by
  induction k generalizing s with
  | zero => exact ⟨rfl, rfl⟩
  | succ k ih =>
    obtain ⟨hDT, hST⟩ : s.idleStep.DT = s.DT ∧ s.idleStep.ST = s.ST := endStep_timers_external (s := s.beginStep) h
    obtain ⟨hDT', hST'⟩ := ih (s := s.idleStep) (by simpa using h)
    exact ⟨hDT'.trans hDT, hST'.trans hST⟩

/-- The step at `s` executes an AwaitKeyPress, and no key is pressed. -/
def AwaitsKey (x : Reg) (s : State) : Prop :=
  s.PC.toNat < 4095 ∧ fetchedInstr s = .awaitKeyPress x ∧ ∀ k : Key, s.key k = false

theorem AwaitsKey.step_eq {x : Reg} {s : State} (h : AwaitsKey x s) : step s = .next s.idleStep := by
  obtain ⟨hPC, hi, hkeys⟩ := h
  exact step_next_of_exec hPC hi (exec_awaitKeyPress_of_no_key x hkeys)

theorem AwaitsKey.idleStep {x : Reg} {s : State} (h : AwaitsKey x s) : AwaitsKey x s.idleStep := by
  simpa [AwaitsKey] using h

/-- Settles O40: a step that waits for a key is an idle step, after which the same wait is fetched. -/
theorem awaitKeyPressSpinsUntilAKey : Obligations.AwaitKeyPressSpinsUntilAKey := fun _ k s hPC hi hkeys =>
  ⟨_, run_eq_iterate (fun _ => AwaitsKey.step_eq) (fun _ => AwaitsKey.idleStep) k ⟨hPC, hi, hkeys⟩,
    idleStep_iterate_cycles k s, idleStep_iterate_timers_perStep k, idleStep_iterate_timers_external k,
    frame_iterate frame_idleStep k s⟩

end Sys2Proof.Machine
end

section
/-! PROOFS. The two variants that decode without error and fail only when executed (R220, R221). -/

namespace Sys2Proof.Machine

/-- R220: the raise records the operand and the `PC` of the instruction. -/
theorem exec_sysCall (nnn : Lit12) (s : State) :
    exec (.sysCall nnn) s = .fault (.unsupportedInstruction s.PC nnn) := by
  rw [exec, execSysCall, raise]

/-- R221: the raise records the whole word and the `PC` of the instruction. -/
theorem exec_unknown (w : Word) (s : State) : exec (.unknown w) s = .fault (.invalidOpcode s.PC w) := by
  rw [exec, execUnknown, raise]

/-- Settles O42: each of the two instructions is a raise with no guard before it, in every state. -/
theorem invalidInstructionsAlwaysFail : Obligations.InvalidInstructionsAlwaysFail := fun nnn w s =>
  ⟨exec_sysCall nnn s, exec_unknown w s⟩

end Sys2Proof.Machine
end

section
/-! PROOFS. Errors and the host (R230 to R255): an instruction raises what the table of R238 has for it and nothing else,
and so does a step; what a step asks of the display; who sees the keypad; and what the host may do. -/

namespace Sys2Proof.Machine

/-! ### The table of errors -/

/-- An outcome follows an entry of the table: its error where there is one, a next state where there is none. -/
def FollowsEntry : Option Fault → Host.Outcome State Fault Refusal → Prop
  | none, o => ∃ t, o = .next t
  | some f, o => o = .fault f

theorem followsEntry_iff {e : Option Fault} {o : Host.Outcome State Fault Refusal} :
    FollowsEntry e o ↔ (e = none → ∃ t, o = .next t) ∧ ∀ f, e = some f → o = .fault f := by
  cases e <;> simp [FollowsEntry]

/-- An entry that names its error under a condition. -/
theorem followsEntry_ite {p : Prop} [Decidable p] {f : Fault} {o : Host.Outcome State Fault Refusal}
    (hok : ¬ p → ∃ t, o = .next t) (hfault : p → o = .fault f) : FollowsEntry (if p then some f else none) o := by
  split_ifs with hp
  · exact hfault hp
  · exact hok hp

theorem exists_next_of_and {p : State → Prop} {o : Host.Outcome State Fault Refusal} (h : ∃ t, o = .next t ∧ p t) :
    ∃ t, o = .next t :=
  h.imp fun _ ht => ht.1

/-- A transfer fails where it has a byte to move and its last byte lies past memory (R59). -/
theorem transferError_eq_ite (s : State) (base n : Nat) :
    transferError s base n =
      if n ≠ 0 ∧ 4096 < base + n then some (.outOfBoundsAccess s.PC (max base 4096)) else none := by
  unfold transferError
  simp only [Config.memSize]
  split_ifs <;> first | rfl | omega

theorem followsEntry_transferError {s : State} {base n : Nat} {o : Host.Outcome State Fault Refusal}
    (hfits : n = 0 ∨ base + n ≤ 4096 → ∃ t, o = .next t)
    (hover : n ≠ 0 → 4096 < base + n → o = .fault (.outOfBoundsAccess s.PC (max base 4096))) :
    FollowsEntry (transferError s base n) o := by
  rw [transferError_eq_ite]
  exact followsEntry_ite (fun h => hfits (by omega)) fun ⟨hn, h⟩ => hover hn h

/-- By the rule of each instruction that has an entry; the others answer a next state with no condition. -/
theorem exec_followsEntry (i : Instr) (s : State) : FollowsEntry (tabulatedError i s) (exec i s) := by
  cases i with
  | returnFromSub => exact followsEntry_ite (fun hd => ⟨_, exec_returnFromSub_of_nonempty hd⟩) exec_returnFromSub_of_empty
  | call nnn => exact followsEntry_ite (fun hd => ⟨_, exec_call_of_fits nnn (by omega)⟩) (exec_call_of_full nnn)
  | addAddressReg x =>
    obtain ⟨hfits, hfault, hwrap⟩ := addAddressRegSumOrOverflow x s _ rfl
    refine followsEntry_ite (fun hsafe => ?_) fun ⟨hover, hp⟩ => hfault hover hp
    by_cases hover : 0xFFFF < s.I.toNat + (s.readV x).toNat
    · have hp : s.params.iOverflow = .wrap16 := by
        cases hp : s.params.iOverflow with
        | fault => exact absurd ⟨hover, hp⟩ hsafe
        | wrap16 => rfl
      exact exists_next_of_and (hwrap hover hp)
    · exact exists_next_of_and (hfits (Nat.le_of_not_lt hover))
  | drawSprite x y n =>
    obtain ⟨hfits, hover⟩ := drawSpriteAsksTheDisplay x y n s
    exact followsEntry_transferError (fun h => exists_next_of_and (hfits h).1) hover
  | storeBCDAtAddress x =>
    obtain ⟨hfits, hover⟩ := storeBCDWritesThreeDigits x s
    exact followsEntry_transferError (fun h => exists_next_of_and (hfits (by omega))) fun _ h => hover (by omega)
  | storeRegisters x =>
    obtain ⟨hfits, hover⟩ := storeRegistersWritesMemory x s
    exact followsEntry_transferError (fun h => exists_next_of_and (hfits (by omega))) fun _ h => hover (by omega)
  | loadRegisters x =>
    obtain ⟨hfits, hover⟩ := loadRegistersReadsMemory x s
    exact followsEntry_transferError (fun h => exists_next_of_and (hfits (by omega))) fun _ h => hover (by omega)
  | sysCall nnn => exact exec_sysCall nnn s
  | unknown w => exact exec_unknown w s
  | awaitKeyPress x =>
    cases hk : s.lowestKey with
    | none => exact ⟨_, exec_awaitKeyPress_of_no_key x ((lowestKey_eq_none s).1 hk)⟩
    | some k => exact ⟨_, exec_awaitKeyPress_of_key x hk⟩
  | _ => exact ⟨_, rfl⟩

/-- Settles O43: every instruction follows its entry of the table. -/
theorem errorsAreExactlyTheTabulatedOnes : Obligations.ErrorsAreExactlyTheTabulatedOnes := fun i s =>
  followsEntry_iff.1 (exec_followsEntry i s)

/-! ### A step and the table -/

/-- No entry of the table depends on the display requests. -/
theorem tabulatedError_beginStep (i : Instr) (s : State) : tabulatedError i s.beginStep = tabulatedError i s := by
  cases i <;> rfl

/-- Every entry of the table records the `PC` of the instruction (R239). -/
theorem tabulatedError_pc {i : Instr} {s : State} {f : Fault} (h : tabulatedError i s = some f) : f.pc = s.PC := by
  cases i with
  | drawSprite | storeBCDAtAddress | storeRegisters | loadRegisters =>
    rw [tabulatedError, transferError_eq_ite, Option.ite_none_right_eq_some] at h
    obtain ⟨-, ⟨⟩⟩ := h
    rfl
  | returnFromSub | call | addAddressReg =>
    rw [tabulatedError, Option.ite_none_right_eq_some] at h
    obtain ⟨-, ⟨⟩⟩ := h
    rfl
  | sysCall | unknown =>
    obtain rfl := Option.some.inj h
    rfl
  | _ => exact nomatch h

/-- Settles O44: where the fetch is in bounds, the step ends as the fetched instruction does, and that by its entry. -/
theorem stepCompletesExactlyWhereSafe : Obligations.StepCompletesExactlyWhereSafe := by
  intro s
  obtain ⟨hok, hfault⟩ := errorsAreExactlyTheTabulatedOnes (fetchedInstr s) s.beginStep
  rw [tabulatedError_beginStep] at hok hfault
  refine ⟨fun ⟨hPC, hnone⟩ => ?_, fun hnot => ?_⟩
  · obtain ⟨t, ht⟩ := hok hnone
    exact ⟨t.endStep, step_next_of_exec hPC rfl ht⟩
  · by_cases hPC : s.PC.toNat < 4095
    · obtain ⟨f, hf⟩ := Option.ne_none_iff_exists'.1 fun hnone => hnot ⟨hPC, hnone⟩
      exact ⟨f, step_fault_of_exec hPC rfl (hfault f hf), tabulatedError_pc hf⟩
    · exact ⟨_, fetchOutOfBoundsEndsTheStep s (Nat.le_of_not_lt hPC), rfl⟩

/-! ### Requests to the display -/

/-- The display requests an instruction adds to those before it (R251). -/
theorem exec_events_cases {i : Instr} {s t : State} (h : exec i s = .next t) :
    t.events = s.events ∨ (t.events = s.events ++ [.clear] ∧ i = .clearScreen) ∨
      ∃ x y n bytes, t.events = s.events ++ [.draw (s.readV x) (s.readV y) bytes] ∧ bytes.length = n.val ∧
        i = .drawSprite x y n := by
  cases i with
  | clearScreen =>
    cases h
    exact .inr (.inl ⟨rfl, rfl⟩)
  | drawSprite x y n =>
    obtain ⟨bytes, c, hread, rfl⟩ := execDrawSprite_eq_next h
    obtain ⟨-, rfl⟩ := readBytes_eq_ok hread
    exact .inr (.inr ⟨x, y, n, _, rfl, by simp, rfl⟩)
  | _ => exact .inl (exec_frame h .events (by simp))

/-- Settles O49: the step's list starts empty, the instruction adds its request, and the end of the step adds none. -/
theorem stepEmitsAtMostOneRequest : Obligations.StepEmitsAtMostOneRequest := by
  intro s u h
  obtain ⟨-, t, ht, rfl⟩ := step_eq_next.1 h
  rw [State.endStep_events]
  exact exec_events_cases ht

/-! ### The keypad and the host -/

/-- Settles O51: replacing the keypad is a change to an unseen part, where none of the three key instructions executes. -/
theorem keypadIsSeenOnlyByKeyInstructions : Obligations.KeypadIsSeenOnlyByKeyInstructions := by
  intro i s keys hno
  refine exec_mapUnseen (fun _ => keys) id s ?_
  rintro ⟨x, hx⟩
  obtain ⟨hpressed, hreleased, hawait⟩ := hno x
  simp [hpressed, hreleased, hawait] at hx

theorem frame_setKeys (s : State) (keys : Vector Bool 16) : Frame (fun f => ∃ k, f = .key k) s { s with KEY := keys } := by
  intro f hf
  cases f with
  | key k => exact absurd ⟨k, rfl⟩ hf
  | _ => rfl

theorem hostAct_tick_external {s : State} (h : s.params.tickMode = .external) : hostAct .tick s = some (tick s) := by
  rw [hostAct, h]

theorem hostAct_tick_perStep {s : State} (h : s.params.tickMode = .perStep) : hostAct .tick s = none := by
  rw [hostAct, h]

/-- Settles O57: the two actions of the host, and the mode that has no second one. -/
theorem hostActionsChangeOnlyKeysAndTimers : Obligations.HostActionsChangeOnlyKeysAndTimers := fun keys s =>
  ⟨⟨_, rfl, rfl, frame_setKeys s keys⟩,
    fun hm => ⟨_, hostAct_tick_external hm, tickTimer_toNat s.DT, tickTimer_toNat s.ST, frame_tick s⟩,
    hostAct_tick_perStep⟩

end Sys2Proof.Machine
end

section
/-! PROOFS. Reset and the constructed machine (R270 to R273): memory holds the font image and the ROM, every other part
is as at reset, and the first fetch reads the ROM's first word. -/

namespace Sys2Proof.Machine

/-! ### Bytes copied into memory -/

theorem Memory.get_copyIn_outside (m : Memory) {addr a : Nat} {bs : List Byte} (h : a < addr ∨ addr + bs.length ≤ a) :
    (m.copyIn addr bs).get a = m.get a := by
  rw [Memory.get_copyIn, if_neg (by omega)]

/-- A region of `n` bytes, zero before, reads as the bytes copied into it, cut to what fits and zeros after their end. -/
theorem Memory.get_copyIn_take {m : Memory} {addr n a : Nat} (bs : List Byte) (hlo : addr ≤ a) (hhi : a < addr + n)
    (hm : m.get a = 0) : (m.copyIn addr (bs.take n)).get a = bs.getD (a - addr) 0 := by
  rw [Memory.get_copyIn, List.length_take]
  split_ifs with h
  · rw [List.getD_eq_getElem?_getD, List.getElem?_take_of_lt (by omega), ← List.getD_eq_getElem?_getD]
  · rw [hm, List.getD_eq_default _ _ (by omega)]

/-! ### Memory at reset (R272) -/

theorem bootMemory_get_font (font rom : List Byte) {a : Nat} (ha : a < 0x200) :
    (bootMemory font rom).get a = font.getD a 0 := by
  rw [bootMemory, Memory.get_copyIn_outside _ (.inl ha)]
  exact Memory.get_copyIn_take font (Nat.zero_le a) (by omega) rfl

theorem bootMemory_get_rom (font rom : List Byte) {a : Nat} (hlo : 0x200 ≤ a) (hhi : a < 4096) :
    (bootMemory font rom).get a = rom.getD (a - 0x200) 0 := by
  refine Memory.get_copyIn_take rom hlo hhi ?_
  have hfont : (font.take Config.programOrigin).length ≤ 0x200 := List.length_take_le _ _
  exact Memory.get_copyIn_outside [] (.inr (by omega))

theorem bootMemory_wf (font rom : List Byte) : (bootMemory font rom).wf := by
  have hfont : 0 + (font.take Config.programOrigin).length ≤ Config.memSize := by simp
  have hrom : Config.programOrigin + (rom.take Config.romMax).length ≤ Config.memSize :=
    Nat.add_le_add_left (List.length_take_le _ _) _
  exact Memory.wf_copyIn (Memory.wf_copyIn Memory.wf_nil hfont) hrom

/-! ### The invariant at the start -/

/-- The program origin is in the range of `PC`, and at depth 0 there is no return address to bound. -/
theorem inv_construct (p : Params) (font rom : List Byte) : Inv (construct p font rom) :=
  ⟨bootMemory_wf font rom, (by decide : (0x200 : Word).toNat ≤ 0x10FE), fun _ hk => absurd hk (Nat.not_lt_zero _)⟩

/-- The reset state is the machine constructed from an empty ROM (R270). -/
theorem inv_reset : Inv State.reset := inv_construct paramsOfSpec [] []

/-- Settles O55: the ROM's copy leaves the font image below it as it was, and the font image's leaves zeros above. -/
theorem constructedMemoryHoldsTheROM : Obligations.ConstructedMemoryHoldsTheROM := fun p font rom =>
  ⟨fun _ => bootMemory_get_font font rom, fun _ => bootMemory_get_rom font rom, inv_construct p font rom⟩

/-! ### The other parts of the state (R271) -/

@[simp] theorem State.readV_reset (x : Reg) : State.reset.readV x = 0 := Vector.getElem_replicate _

@[simp] theorem State.key_reset (k : Key) : State.reset.key k = false := Vector.getElem_replicate _

theorem frame_construct (p : Params) (font rom : List Byte) :
    Frame (fun f => f = .params ∨ ∃ a, f = .mem a) State.reset (construct p font rom) := by
  intro f hf
  cases f with
  | mem a => exact absurd (.inr ⟨a, rfl⟩) hf
  | params => exact absurd (.inl rfl) hf
  | _ => rfl

/-- Settles O54: registers and keys are read from constant vectors, and nothing is listed in memory. -/
theorem resetState : Obligations.ResetState :=
  ⟨State.readV_reset, rfl, rfl, rfl, rfl, rfl, State.key_reset, rfl, Memory.get_nil, rfl, rfl, rfl, inv_reset⟩

/-! ### The first fetch (R273) -/

theorem fetchWord_construct (p : Params) (font rom : List Byte) :
    fetchWord (construct p font rom) = .ok (wordOfBytes (rom.getD 0 0) (rom.getD 1 0)) := by
  have hhi : (construct p font rom).M.get 0x200 = rom.getD 0 0 := bootMemory_get_rom font rom (by omega) (by omega)
  have hlo : (construct p font rom).M.get 0x201 = rom.getD 1 0 := bootMemory_get_rom font rom (by omega) (by omega)
  have hPC : (construct p font rom).PC.toNat = 0x200 := rfl
  rw [fetchWord_eq_ok, hPC, hhi, hlo]
  exact ⟨by omega, rfl⟩

/-- Settles O56: construction changes only memory and the parameters of the reset state, and `PC` is the ROM's address. -/
theorem constructedMachineStartsAtTheROM : Obligations.ConstructedMachineStartsAtTheROM := by
  rintro p font rom s rfl
  exact ⟨State.readV_reset, rfl, rfl, rfl, rfl, rfl, State.key_reset, rfl, rfl, rfl, rfl, frame_construct p font rom,
    _, fetchWord_construct p font rom, wordOfBytes_toNat _ _⟩

end Sys2Proof.Machine
end
